-- ==== Sys2Proof/Word.lean ====
section
/-! DEFINITION. The word types of the block: every quantity is an unsigned byte (00_scope.md R8, R9),
a host command is one 80-bit word (30_encoding.md R71), a frame is one 16-bit word (30_encoding.md R60). -/

namespace Sys2Proof

/-- A byte, 0 to 255 (00_scope.md R9). -/
abbrev Byte := BitVec 8

/-- The host command word (30_encoding.md R71). -/
abbrev CmdWord := BitVec 80

/-- A frame as one word, marker above payload (30_encoding.md R60). -/
abbrev FrameWord := BitVec 16

/-- A pin level: `false` is 0 (low), `true` is 1 (high) (00_scope.md R9). -/
abbrev Level := Bool

end Sys2Proof
end

