-- ==== Sys2Proof/Config.lean ====
section
/-! DEFINITION. The parameters of 00_scope.md R6 as a configuration record, and the two parameters the spec
gives no default. The numbers themselves stand in Machine/Constants.lean. -/

namespace Sys2Proof

/-- The eleven constants that the source does not give (00_scope.md R6, rows of general knowledge;
93_implementation_defined.md G1 to G5). A claim that rests on a value names it. -/
structure Codes where
  functionSet  : Byte
  fnBus8       : Byte
  fn2Line      : Byte
  fn5x10       : Byte
  ctlDisplayOn : Byte
  ctlCursorOn  : Byte
  ctlBlinkOn   : Byte
  entLeft      : Byte
  entShiftInc  : Byte
  moveRight    : Byte
  moveLeft     : Byte
  deriving DecidableEq, Repr

/-- What an instance of the block fixes for its life (00_scope.md R6, 10_state.md R27, 60_exceptions.md R168). -/
structure Config where
  /-- `HAS_SELECT`: a chip-select line is wired. -/
  hasSelect     : Bool
  /-- `T_SETTLE_US`, microseconds; at least 2000. -/
  settleUs      : Nat
  /-- `CYCLES_PER_STEP`; at least 1. -/
  cyclesPerStep : Nat
  /-- `f_clk`, the frequency of `clk` in hertz (60_exceptions.md R168). -/
  clkHz         : Nat
  codes         : Codes
  deriving DecidableEq, Repr

/-- `HAS_SELECT` of the instance that `State.reset` describes: the spec leaves it to the instantiator
(00_scope.md R6), so no value is known. DESIGN CHOICE, safe: notes/assumptions/1.md. -/
opaque Config.instantiatedSelect : Bool

/-- `f_clk` of the instance that `State.reset` describes, not given by the spec.
DESIGN CHOICE, safe: notes/assumptions/1.md. -/
opaque Config.instantiatedClkHz : Nat

end Sys2Proof
end

