-- ==== Sys2Proof/Machine/Constants.lean ====
section
/-! DEFINITION. The numbers of 00_scope.md R6: the source's constants as numerals, the defaults of the
configuration, and the reset values of 10_state.md R35. -/

namespace Sys2Proof.Machine

/-! ### The source's constants -/

def frameCommand   : Byte := 0xF8
def frameData      : Byte := 0xFA
def clearCode      : Byte := 0x01
def returnHome     : Byte := 0x02
def entryModeSet   : Byte := 0x04
def displayControl : Byte := 0x08
def cursorShift    : Byte := 0x10
def displayMove    : Byte := 0x08
def setCgramAddr   : Byte := 0x40
def setDdramAddr   : Byte := 0x80

/-- `ROW_OFFSET` (20_memory.md R57): four entries and no more. -/
def rowOffset (r : Byte) : Option Byte :=
  match r with
  | 0#8 => some 0x00
  | 1#8 => some 0x40
  | 2#8 => some 0x14
  | 3#8 => some 0x54
  | _ => none

/-! ### The defaults of the configuration -/

/-- The defaults of 00_scope.md R6 for the constants the source does not give
(93_implementation_defined.md G1 to G5). PRESUMED by the spec, unsafe: notes/assumptions/2.md. -/
def defaultCodes : Codes where
  functionSet  := 0x20
  fnBus8       := 0x10
  fn2Line      := 0x08
  fn5x10       := 0x04
  ctlDisplayOn := 0x04
  ctlCursorOn  := 0x02
  ctlBlinkOn   := 0x01
  entLeft      := 0x02
  entShiftInc  := 0x01
  moveRight    := 0x04
  moveLeft     := 0x00

/-- The configuration `State.reset` carries: the defaults of 00_scope.md R6, and free values where R6 has none
(notes/assumptions/1.md to 3.md). -/
def defaultConfig : Config where
  hasSelect     := Config.instantiatedSelect
  settleUs      := 2000
  cyclesPerStep := 1
  clkHz         := Config.instantiatedClkHz
  codes         := defaultCodes

/-! ### Reset values (10_state.md R35) -/

def resetFunctionFlags (c : Config) : Byte := c.codes.fnBus8
def resetControlFlags : Byte := 0x00
def resetEntryFlags   : Byte := 0x00
def resetLineCount    : Byte := 1
def resetCurrentLine  : Byte := 0
def resetSck : Level := true
def resetSda : Level := false
def resetCsn : Level := true

end Sys2Proof.Machine
end

