-- ==== Sys2Proof/Syntax.lean ====
section
/-! DEFINITION. The instructions: one constructor per row of spec/opcode_table.json (19 host operations, 3 internal
primitives, 8 display command bytes), the words that carry them, and the names of the words that carry none. -/

namespace Sys2Proof

/-- The four formats of spec/opcode_table.json. -/
inductive Format where
  | host | wireFrame | wireByte | wireCmd
  deriving DecidableEq, Repr

/-- An encoded instruction at the interface that takes it (00_scope.md R2): the host command port, the Frame
Transmitter, the Bit Serializer, or the payload position of a command frame (30_encoding.md R60, R61, R71). -/
inductive Request where
  | host (w : CmdWord)
  | frame (w : FrameWord)
  | wireByte (b : Byte)
  | wireCmd (b : Byte)
  deriving DecidableEq, Repr

/-- Why a word is no instruction. -/
inductive DecodeError where
  /-- Host opcode 0x00 or 0x14 to 0xFF (30_encoding.md R78). -/
  | unassignedOpcode (op : Byte)
  /-- A frame whose marker is neither 0xF8 nor 0xFA (30_encoding.md R79). -/
  | unknownMarker (marker : Byte)
  /-- A byte that matches none of the eight command patterns (30_encoding.md R61, R79). -/
  | notACommandByte (b : Byte)
  deriving DecidableEq, Repr

/-- The instructions. Host operations: 30_encoding.md R72. Primitives: 40_bit_serializer.md R90,
41_frame_transmitter.md R100, R101. Command bytes: 30_encoding.md R61 to R69, their letters as Booleans. -/
inductive Instr where
  -- HOST
  | begin (cols rows dotSize : Byte)
  | clear
  | home
  | setCursor (col row : Byte)
  | display
  | noDisplay
  | cursor
  | noCursor
  | blink
  | noBlink
  | scrollLeft
  | scrollRight
  | ltr
  | rtl
  | autoscroll
  | noAutoscroll
  | createChar (slot g0 g1 g2 g3 g4 g5 g6 g7 : Byte)
  | write (byte : Byte)
  | command (byte : Byte)
  -- WIRE_FRAME
  | sendCommand (payload : Byte)
  | sendData (payload : Byte)
  -- WIRE_BYTE
  | send (b : Byte)
  -- WIRE_CMD
  | cmdClear
  | cmdReturnHome
  | cmdEntryModeSet (i s : Bool)
  | cmdDisplayControl (d c b : Bool)
  | cmdDisplayShift (r : Bool)
  | cmdFunctionSet (n f : Bool)
  | cmdSetCgramAddr (slot : BitVec 3)
  | cmdSetDdramAddr (a : BitVec 7)
  deriving DecidableEq, Repr

end Sys2Proof
end

