-- ==== Sys2Proof/Machine/State.lean ====
section
/-! DEFINITION. The state of the block (10_state.md R20, R30), its events, what the host does to it, and how a step
can stop. The block has no memory (20_memory.md R40), so State has none. -/

namespace Sys2Proof.Machine

/-! ### Events and the sequencer's steps -/

/-- The output pins (10_state.md R26). -/
inductive Pin where
  | sck | sda | csn
  deriving DecidableEq, Repr

/-- The events of the output trace (00_scope.md R11): `Pin(P, l)` and `Wait(n)`, `n` in microseconds. -/
inductive Event where
  | pin (p : Pin) (l : Level)
  | wait (n : Nat)
  deriving DecidableEq, Repr

/-- The five registers (10_state.md R21 to R25). -/
inductive Reg where
  | functionFlags | controlFlags | entryFlags | lineCount | currentLine
  deriving DecidableEq, Repr

/-- One statement of an operation (00_scope.md R10): `reg <- v`, or `drive` / `wait_us` as its event. -/
inductive Micro where
  | write (r : Reg) (v : Byte)
  | emit (e : Event)
  deriving DecidableEq, Repr

/-- The hidden sequencer state of an operation in progress (10_state.md R30, 40_bit_serializer.md R94). -/
structure Busy where
  /-- The accepted command word, sampled once (30_encoding.md R71). -/
  word : CmdWord
  /-- The statements still to be done: the position in the operation's event list (10_state.md R31). -/
  todo : List Micro
  /-- Clock edges that pass before the one at which the next event is done; during a wait, the settle time that remains. -/
  left : Nat
  deriving DecidableEq, Repr

/-! ### The host -/

/-- The input ports at one rising edge of `clk` (30_encoding.md R70). -/
structure PortIn where
  rst      : Bool
  cmdValid : Bool
  cmd      : CmdWord
  deriving DecidableEq, Repr

/-- One thing the host does (60_exceptions.md R173), through the command port and `rst` and nothing else: its operations are those of
a command word (44_begin.md R155). The list of them in `State.host` is the model's own
(DESIGN CHOICE, notes/assumptions/5.md). -/
inductive HostAct where
  /-- Present one command word, hold it until it is accepted, and wait until it is complete. -/
  | call (w : CmdWord)
  /-- One rising edge of `clk` with these input levels. -/
  | edge (p : PortIn)
  deriving DecidableEq, Repr

/-! ### The inner components -/

/-- A request at the interface of a component below the command port (00_scope.md R2): the Frame Transmitter, the Bit Serializer, or
the payload position of a command frame. No host operation is one (44_begin.md R155).
DESIGN CHOICE, notes/assumptions/8.md. -/
inductive Inner where
  | frame (w : FrameWord)
  | wireByte (b : Byte)
  | wireCmd (b : Byte)
  deriving DecidableEq, Repr

/-! ### The state -/

/-- The state of the block. -/
structure State where
  /-- The parameters of the instance; no step changes them (10_state.md R27; notes/assumptions/1.md). -/
  cfg           : Config
  /-- 10_state.md R21. -/
  functionFlags : Byte
  /-- 10_state.md R22. -/
  controlFlags  : Byte
  /-- 10_state.md R23. -/
  entryFlags    : Byte
  /-- 10_state.md R24. -/
  lineCount     : Byte
  /-- 10_state.md R25. -/
  currentLine   : Byte
  /-- The clock latch (10_state.md R26). -/
  sck           : Level
  /-- The data latch (10_state.md R26). -/
  sda           : Level
  /-- The chip-select latch, active low (10_state.md R26). -/
  csn           : Level
  /-- The sequencer, `none` when idle (10_state.md R30). -/
  seq           : Option Busy
  /-- The output trace since reset, oldest event first (00_scope.md R11). -/
  trace         : List Event
  /-- What the host does next, oldest first (the model's own field, notes/assumptions/5.md). -/
  host          : List HostAct
  /-- A request placed at an inner component from outside the machine; no step and no host places one (the model's own field,
  notes/assumptions/8.md). -/
  inner         : Option Inner
  deriving DecidableEq, Repr

/-- The reasons a step stops with a fault: there is none, because the block raises no exception and detects no error
(60_exceptions.md R160, R167), cannot be stuck and cannot hang (R172). Safe: notes/assumptions/21.md. -/
inductive Fault where
  deriving DecidableEq, Repr

/-- The reasons a step is refused (60_exceptions.md R171): no meaning is given, so nothing can be proved of the run. -/
inductive Refusal where
  /-- An instruction without a meaning, refused in its arm of `exec`. No arm raises it. Safe. -/
  | notModelled (mnemonic : String)
  /-- `BEGIN` with `rows = 0`, and `SETCURSOR` in a state whose `lineCount` is 0 (44_begin.md R152,
  30_encoding.md R77; notes/assumptions/13.md). Raised by the meanings of the two. Safe. -/
  | lineCountZero
  /-- `SETCURSOR` whose clamped row is above 3 (42_display_commands.md R112). Raised by its meaning. Safe. -/
  | rowOffsetOutOfTable
  /-- A host opcode that is none (30_encoding.md R78). Raised by the step at the decoder. Safe. -/
  | unassignedOpcode (op : Byte)
  /-- A frame with a marker the block never produces (30_encoding.md R79). Raised by the step at the decoder. Safe. -/
  | unknownMarker (marker : Byte)
  /-- A byte that is none of the eight command bytes (30_encoding.md R79). Raised by the step at the decoder. Safe. -/
  | notACommandByte (b : Byte)
  deriving DecidableEq, Repr

/-- The outcome of a step of this machine. -/
abbrev Out := Host.Outcome State Fault Refusal

/-- The state after reset (10_state.md R35, 70_reset_and_hazards.md R180) of an instance with configuration `c`, before
a host that will do `h`. -/
def State.resetWith (c : Config) (h : List HostAct) : State where
  cfg           := c
  functionFlags := resetFunctionFlags c
  controlFlags  := resetControlFlags
  entryFlags    := resetEntryFlags
  lineCount     := resetLineCount
  currentLine   := resetCurrentLine
  sck           := resetSck
  sda           := resetSda
  csn           := resetCsn
  seq           := none
  trace         := []
  host          := h
  inner         := none

/-- The machine right after reset. -/
def State.reset : State := State.resetWith defaultConfig []

end Sys2Proof.Machine
end

