-- ==== Sys2Proof/Machine/Ops.lean ====
section
/-! DEFINITION. The operations every meaning is built from: register writes, pin drives and waits; the three internal
primitives as lists of statements (40_bit_serializer.md, 41_frame_transmitter.md); running a list of statements; and
reset, the one event that takes the block out of an operation. The block takes no exception and returns from none
(60_exceptions.md R160, R163, R164), so there is no operation for either. -/

namespace Sys2Proof.Machine

/-! ### One statement -/

/-- `reg <- v` (00_scope.md R10). -/
def State.writeReg (s : State) (r : Reg) (v : Byte) : State :=
  match r with
  | .functionFlags => { s with functionFlags := v }
  | .controlFlags  => { s with controlFlags := v }
  | .entryFlags    => { s with entryFlags := v }
  | .lineCount     => { s with lineCount := v }
  | .currentLine   => { s with currentLine := v }

/-- The latch that pin `p` drives takes level `l` (10_state.md R26). -/
def State.setPin (s : State) (p : Pin) (l : Level) : State :=
  match p with
  | .sck => { s with sck := l }
  | .sda => { s with sda := l }
  | .csn => { s with csn := l }

/-- An event happens: `drive(P, l)` sets its pin, `wait_us(n)` holds all three, and either is appended to the output trace
(00_scope.md R10, R11). -/
def State.emit (s : State) (e : Event) : State :=
  match e with
  | .pin p l => { s.setPin p l with trace := s.trace ++ [e] }
  | .wait _  => { s with trace := s.trace ++ [e] }

/-- One statement of an operation. -/
def State.micro (s : State) (m : Micro) : State :=
  match m with
  | .write r v => s.writeReg r v
  | .emit e    => s.emit e

/-- Statements in the order written (00_scope.md R10, 20_memory.md R52). -/
def State.perform (s : State) : List Micro → State
  | []      => s
  | m :: ms => (s.micro m).perform ms

/-- The events of a list of statements, in order. -/
def eventsOf : List Micro → List Event
  | []              => []
  | .write _ _ :: l => eventsOf l
  | .emit e :: l    => e :: eventsOf l

/-! ### The primitives -/

/-- `drive(P, l)` as a statement. -/
def drive (p : Pin) (l : Level) : Micro := .emit (.pin p l)

/-- The three events of bit `i` of `b`: clock low, data, clock high (40_bit_serializer.md R90, R92). -/
def bitMicros (b : Byte) (i : Nat) : List Micro :=
  [drive .sck false, drive .sda (b.getLsbD i), drive .sck true]

/-- `SEND(b)` (40_bit_serializer.md R90): clock high, then bit 7 down to bit 0. -/
def sendMicros (b : Byte) : List Micro :=
  drive .sck true ::
    (bitMicros b 7 ++ bitMicros b 6 ++ bitMicros b 5 ++ bitMicros b 4 ++
     bitMicros b 3 ++ bitMicros b 2 ++ bitMicros b 1 ++ bitMicros b 0)

/-- `if HAS_SELECT: drive(CSN, l)` (41_frame_transmitter.md R100). -/
def selectMicros (c : Config) (l : Level) : List Micro :=
  if c.hasSelect then [drive .csn l] else []

/-- A two-byte frame inside its chip-select bracket (41_frame_transmitter.md R100 to R102). -/
def frameMicros (c : Config) (marker payload : Byte) : List Micro :=
  selectMicros c false ++ sendMicros marker ++ sendMicros payload ++ selectMicros c true

/-- `SENDCOMMAND(p)` (41_frame_transmitter.md R100). -/
def sendCommandMicros (c : Config) (p : Byte) : List Micro := frameMicros c frameCommand p

/-- `SENDDATA(p)` (41_frame_transmitter.md R101). -/
def sendDataMicros (c : Config) (p : Byte) : List Micro := frameMicros c frameData p

/-- `wait_us(T_SETTLE_US)` (60_exceptions.md R168). -/
def settleMicros (c : Config) : List Micro := [.emit (.wait c.settleUs)]

/-! ### Running an operation, and reset -/

/-- A whole operation: its statements, or the refusal that gives it no meaning (60_exceptions.md R171). -/
def runProgram (p : Except Refusal (List Micro)) (s : State) : Out :=
  match p with
  | .ok ms   => .next (s.perform ms)
  | .error r => .refused r

/-- Reset (70_reset_and_hazards.md R180, R184): every piece of state takes its reset value and an operation in progress is
abandoned, as is a request at an inner component; the configuration is not affected, and the host goes on with what it does next. -/
def State.resetBlock (s : State) : State := State.resetWith s.cfg s.host

/-! ### The ports the host sees (30_encoding.md R70) -/

/-- `cmd_ready`: the block is idle (10_state.md R28). -/
def State.cmdReady (s : State) : Bool := s.seq.isNone

/-- `sck`. -/
def State.portSck (s : State) : Level := s.sck

/-- `sdata`. -/
def State.portSdata (s : State) : Level := s.sda

/-- `cs_n`: the `CSN` latch, constant 1 when there is no select line. -/
def State.portCsN (s : State) : Level := if s.cfg.hasSelect then s.csn else true

end Sys2Proof.Machine
end

