-- ==== Sys2Proof/Machine/Operands.lean ====
section
/-! DEFINITION. Operand assembly (30_encoding.md R75, R76): the row clamp, the DDRAM address and the CGRAM slot. -/

namespace Sys2Proof.Machine

/-- `min(row, lineCount - 1)`, unsigned, for `lineCount ≥ 1` (30_encoding.md R75). -/
def clampRow (row lineCount : Byte) : Byte :=
  if row < lineCount - 1 then row else lineCount - 1

/-- The DDRAM address of `SETCURSOR` (30_encoding.md R75): an 8-bit sum whose carry is discarded. With `lineCount = 0` there is no
last row and the operation is refused before the subtraction (R77; notes/assumptions/13.md). -/
def ddramAddress (col row lineCount : Byte) : Except Refusal Byte :=
  if lineCount = 0 then .error .lineCountZero
  else
    match rowOffset (clampRow row lineCount) with
    | some o => .ok (col + o)
    | none   => .error .rowOffsetOutOfTable

/-- `SET_DDRAM_ADDR | a` (30_encoding.md R69). -/
def ddramPayload (a : Byte) : Byte := setDdramAddr ||| a

/-- `SET_CGRAM_ADDR | ((slot & 7) << 3)` (30_encoding.md R68, R76). -/
def cgramPayload (slot : Byte) : Byte := setCgramAddr ||| ((slot &&& 0x07) <<< 3)

/-- `CURSOR_SHIFT | DISPLAY_MOVE | dir` (30_encoding.md R66). -/
def shiftPayload (dir : Byte) : Byte := cursorShift ||| displayMove ||| dir

end Sys2Proof.Machine
end

