-- ==== Sys2Proof/Machine/DisplayCommands.lean ====
section
/-! DEFINITION. The display operations that touch no flag register (42_display_commands.md). Each operation is a list of
statements, its program, and its meaning runs the whole of it. -/

namespace Sys2Proof.Machine

/-- `CLEAR` (42_display_commands.md R110). -/
def clearProgram (s : State) : List Micro :=
  sendCommandMicros s.cfg clearCode ++ [.write .currentLine 0] ++ settleMicros s.cfg

/-- `CLEAR` (R110). -/
def execClear (s : State) : Out := runProgram (.ok (clearProgram s)) s

/-- `HOME` (R111). -/
def homeProgram (s : State) : List Micro := sendCommandMicros s.cfg returnHome ++ settleMicros s.cfg

/-- `HOME` (R111): `currentLine` is not written. -/
def execHome (s : State) : Out := runProgram (.ok (homeProgram s)) s

/-- `SETCURSOR col, row` (R112). -/
def setCursorProgram (col row : Byte) (s : State) : Except Refusal (List Micro) :=
  match ddramAddress col row s.lineCount with
  | .ok a    => .ok (sendCommandMicros s.cfg (ddramPayload a))
  | .error r => .error r

/-- `SETCURSOR col, row` (R112). -/
def execSetCursor (col row : Byte) (s : State) : Out := runProgram (setCursorProgram col row s) s

/-- `SCROLLLEFT` (R113). -/
def scrollLeftProgram (s : State) : List Micro :=
  sendCommandMicros s.cfg (shiftPayload s.cfg.codes.moveLeft)

/-- `SCROLLLEFT` (R113). -/
def execScrollLeft (s : State) : Out := runProgram (.ok (scrollLeftProgram s)) s

/-- `SCROLLRIGHT` (R114). -/
def scrollRightProgram (s : State) : List Micro :=
  sendCommandMicros s.cfg (shiftPayload s.cfg.codes.moveRight)

/-- `SCROLLRIGHT` (R114). -/
def execScrollRight (s : State) : Out := runProgram (.ok (scrollRightProgram s)) s

/-- `CREATECHAR slot, g0 … g7` (R115): one address command, eight data frames. -/
def createCharProgram (slot g0 g1 g2 g3 g4 g5 g6 g7 : Byte) (s : State) : List Micro :=
  sendCommandMicros s.cfg (cgramPayload slot) ++
    [g0, g1, g2, g3, g4, g5, g6, g7].flatMap (sendDataMicros s.cfg)

/-- `CREATECHAR slot, g0 … g7` (R115). -/
def execCreateChar (slot g0 g1 g2 g3 g4 g5 g6 g7 : Byte) (s : State) : Out :=
  runProgram (.ok (createCharProgram slot g0 g1 g2 g3 g4 g5 g6 g7 s)) s

/-- `WRITE byte` (R116). -/
def writeProgram (byte : Byte) (s : State) : List Micro := sendDataMicros s.cfg byte

/-- `WRITE byte` (R116). -/
def execWrite (byte : Byte) (s : State) : Out := runProgram (.ok (writeProgram byte s)) s

/-- `COMMAND byte` (R117). -/
def commandProgram (byte : Byte) (s : State) : List Micro := sendCommandMicros s.cfg byte

/-- `COMMAND byte` (R117): no register is updated and no wait follows, whatever the byte. -/
def execCommand (byte : Byte) (s : State) : Out := runProgram (.ok (commandProgram byte s)) s

end Sys2Proof.Machine
end

