-- ==== Sys2Proof/Machine/Flags.lean ====
section
/-! DEFINITION. The flag registers (10_state.md R21 to R23): how an operation changes one, and the resend of the whole
register (30_encoding.md R74, 43_register_ops.md R130). The block has no status flags (10_state.md R28). -/

namespace Sys2Proof.Machine

/-- `R | M` of a set-type operation (43_register_ops.md R130). -/
def setBits (r m : Byte) : Byte := r ||| m

/-- `R & ~M` of a clear-type operation (43_register_ops.md R130). -/
def clearBits (r m : Byte) : Byte := r &&& ~~~m

/-- The payload for a flag register: opcode OR register, all eight bits, no mask (30_encoding.md R74). -/
def flagPayload (opcode r : Byte) : Byte := opcode ||| r

/-- `controlFlags <- v; SENDCOMMAND(DISPLAY_CONTROL | controlFlags)` (43_register_ops.md R130, 30_encoding.md R65). -/
def controlMicros (c : Config) (v : Byte) : List Micro :=
  .write .controlFlags v :: sendCommandMicros c (flagPayload displayControl v)

/-- `entryFlags <- v; SENDCOMMAND(ENTRY_MODE_SET | entryFlags)` (43_register_ops.md R130, 30_encoding.md R64). -/
def entryMicros (c : Config) (v : Byte) : List Micro :=
  .write .entryFlags v :: sendCommandMicros c (flagPayload entryModeSet v)

/-- `functionFlags` after `BEGIN` with these operands: bits are OR'd in, none is cleared (44_begin.md R150, R153). -/
def beginFunctionFlags (c : Config) (f rows dotSize : Byte) : Byte :=
  if rows > 1 then setBits f c.codes.fn2Line
  else if dotSize ≠ 0 ∧ rows = 1 then setBits f c.codes.fn5x10
  else f

end Sys2Proof.Machine
end

