-- ==== Sys2Proof/Machine/Begin.lean ====
section
/-! DEFINITION. Initialization (44_begin.md): `BEGIN`. -/

namespace Sys2Proof.Machine

/-- `BEGIN cols, rows, dotSize` (44_begin.md R150): `cols` has no effect; `rows = 0` is refused (R152). -/
def beginProgram (rows dotSize : Byte) (s : State) : Except Refusal (List Micro) :=
  if rows = 0 then .error .lineCountZero
  else
    let c := s.cfg
    .ok ((if rows > 1 then [.write .functionFlags (setBits s.functionFlags c.codes.fn2Line)] else []) ++
      [.write .lineCount rows, .write .currentLine 0] ++
      (if dotSize ≠ 0 ∧ rows = 1 then [.write .functionFlags (setBits s.functionFlags c.codes.fn5x10)] else []) ++
      clearProgram s ++
      homeProgram s ++
      sendCommandMicros c (flagPayload c.codes.functionSet (beginFunctionFlags c s.functionFlags rows dotSize)) ++
      entryMicros c c.codes.entLeft ++
      sendCommandMicros c (ddramPayload 0) ++
      controlMicros c c.codes.ctlDisplayOn ++
      sendCommandMicros c (ddramPayload 0))

/-- `BEGIN cols, rows, dotSize` (44_begin.md R150). -/
def execBegin (_cols rows dotSize : Byte) (s : State) : Out := runProgram (beginProgram rows dotSize s) s

end Sys2Proof.Machine
end

