-- ==== Sys2Proof/Decode.lean ====
section
/-! DEFINITION. The decoder, total on every word of every format and rejecting by name, and after it the encoder,
both from 30_encoding.md R60 to R73 and spec/opcode_table.json. -/

namespace Sys2Proof

/-! ### The fields of a word -/

/-- Bits 79:72 of a command word (30_encoding.md R71). -/
def CmdWord.op (w : CmdWord) : Byte := w.extractLsb' 72 8

/-- Operand byte `p<k>`, bits 71-8k : 64-8k (30_encoding.md R71); `k` is 0 to 8. -/
def CmdWord.operand (w : CmdWord) (k : Nat) : Byte := w.extractLsb' (64 - 8 * k) 8

/-- Bits 15:8 of a frame (30_encoding.md R60). -/
def FrameWord.marker (w : FrameWord) : Byte := w.extractLsb' 8 8

/-- Bits 7:0 of a frame (30_encoding.md R60). -/
def FrameWord.payload (w : FrameWord) : Byte := w.extractLsb' 0 8

/-! ### Decoding -/

/-- A host operation from its opcode and operand bytes (30_encoding.md R72, R73): the whole `op` byte decides, unused
operand bytes are ignored, and the opcodes of R78 are none. -/
def decodeFields (op : Byte) (p : Nat → Byte) : Except DecodeError Instr :=
  match op.toNat with
  | 0x01 => .ok (.begin (p 0) (p 1) (p 2))
  | 0x02 => .ok .clear
  | 0x03 => .ok .home
  | 0x04 => .ok (.setCursor (p 0) (p 1))
  | 0x05 => .ok .display
  | 0x06 => .ok .noDisplay
  | 0x07 => .ok .cursor
  | 0x08 => .ok .noCursor
  | 0x09 => .ok .blink
  | 0x0A => .ok .noBlink
  | 0x0B => .ok .scrollLeft
  | 0x0C => .ok .scrollRight
  | 0x0D => .ok .ltr
  | 0x0E => .ok .rtl
  | 0x0F => .ok .autoscroll
  | 0x10 => .ok .noAutoscroll
  | 0x11 => .ok (.createChar (p 0) (p 1) (p 2) (p 3) (p 4) (p 5) (p 6) (p 7) (p 8))
  | 0x12 => .ok (.write (p 0))
  | 0x13 => .ok (.command (p 0))
  | _    => .error (.unassignedOpcode op)

/-- A host command word (30_encoding.md R71). -/
def decodeHost (w : CmdWord) : Except DecodeError Instr := decodeFields (CmdWord.op w) (CmdWord.operand w)

/-- A frame (30_encoding.md R60): the marker decides; no other marker is ever produced (R79). -/
def decodeFrame (w : FrameWord) : Except DecodeError Instr :=
  match FrameWord.marker w with
  | 0xF8#8 => .ok (.sendCommand (FrameWord.payload w))
  | 0xFA#8 => .ok (.sendData (FrameWord.payload w))
  | m      => .error (.unknownMarker m)

/-- A display command byte (30_encoding.md R61): the eight patterns, highest opcode bit first. -/
def decodeCmd (b : Byte) : Except DecodeError Instr :=
  if b &&& 0x80 = 0x80 then .ok (.cmdSetDdramAddr (b.extractLsb' 0 7))
  else if b &&& 0xC7 = 0x40 then .ok (.cmdSetCgramAddr (b.extractLsb' 3 3))
  else if b &&& 0xF3 = 0x30 then .ok (.cmdFunctionSet (b.getLsbD 3) (b.getLsbD 2))
  else if b &&& 0xFB = 0x18 then .ok (.cmdDisplayShift (b.getLsbD 2))
  else if b &&& 0xF8 = 0x08 then .ok (.cmdDisplayControl (b.getLsbD 2) (b.getLsbD 1) (b.getLsbD 0))
  else if b &&& 0xFC = 0x04 then .ok (.cmdEntryModeSet (b.getLsbD 1) (b.getLsbD 0))
  else if b = 0x02 then .ok .cmdReturnHome
  else if b = 0x01 then .ok .cmdClear
  else .error (.notACommandByte b)

/-- The decoder of each interface. Every byte is a `SEND` operand (40_bit_serializer.md R90). -/
def decode : Request → Except DecodeError Instr
  | .host w     => decodeHost w
  | .frame w    => decodeFrame w
  | .wireByte b => .ok (.send b)
  | .wireCmd b  => decodeCmd b

/-! ### Encoding -/

/-- A byte at bits `k + 7 : k` of a command word. -/
def placeByte (b : Byte) (k : Nat) : CmdWord := b.setWidth 80 <<< k

/-- A command word from its opcode and nine operand bytes (30_encoding.md R71). -/
def hostWord (op p0 p1 p2 p3 p4 p5 p6 p7 p8 : Byte) : CmdWord :=
  placeByte op 72 ||| placeByte p0 64 ||| placeByte p1 56 ||| placeByte p2 48 ||| placeByte p3 40 |||
    placeByte p4 32 ||| placeByte p5 24 ||| placeByte p6 16 ||| placeByte p7 8 ||| placeByte p8 0

/-- A frame from its marker and payload, marker first (30_encoding.md R60). -/
def frameWord (marker payload : Byte) : FrameWord := (marker.setWidth 16 <<< 8) ||| payload.setWidth 16

/-- A host operation of at most three operands; unused operand bytes assemble as 0x00 (30_encoding.md R81). -/
def hostWordShort (op p0 p1 p2 : Byte) : CmdWord := hostWord op p0 p1 p2 0 0 0 0 0 0

/-- A one-bit field at bit `k` of a byte. -/
def flagBit (v : Bool) (k : Nat) : Byte := if v then 1 <<< k else 0

/-! The eight display command bytes (30_encoding.md R61 to R69). -/

/-- The byte of `CMD_CLEAR` (R62). -/
def cmdClearByte : Byte := 0x01

/-- The byte of `CMD_RETURN_HOME` (R63). -/
def cmdReturnHomeByte : Byte := 0x02

/-- The byte of `CMD_ENTRY_MODE_SET` (R64). -/
def cmdEntryModeSetByte (i s : Bool) : Byte := 0x04 ||| flagBit i 1 ||| flagBit s 0

/-- The byte of `CMD_DISPLAY_CONTROL` (R65). -/
def cmdDisplayControlByte (d c b : Bool) : Byte := 0x08 ||| flagBit d 2 ||| flagBit c 1 ||| flagBit b 0

/-- The byte of `CMD_DISPLAY_SHIFT` (R66). -/
def cmdDisplayShiftByte (r : Bool) : Byte := 0x18 ||| flagBit r 2

/-- The byte of `CMD_FUNCTION_SET` (R67). -/
def cmdFunctionSetByte (n f : Bool) : Byte := 0x30 ||| flagBit n 3 ||| flagBit f 2

/-- The byte of `CMD_SET_CGRAM_ADDR` (R68). -/
def cmdSetCgramAddrByte (slot : BitVec 3) : Byte := 0x40 ||| (slot.setWidth 8 <<< 3)

/-- The byte of `CMD_SET_DDRAM_ADDR` (R69). -/
def cmdSetDdramAddrByte (a : BitVec 7) : Byte := 0x80 ||| a.setWidth 8

/-- The encoder (30_encoding.md R60 to R72, R81). -/
def encode : Instr → Request
  | .begin cols rows dotSize => .host (hostWordShort 0x01 cols rows dotSize)
  | .clear                   => .host (hostWordShort 0x02 0 0 0)
  | .home                    => .host (hostWordShort 0x03 0 0 0)
  | .setCursor col row       => .host (hostWordShort 0x04 col row 0)
  | .display                 => .host (hostWordShort 0x05 0 0 0)
  | .noDisplay               => .host (hostWordShort 0x06 0 0 0)
  | .cursor                  => .host (hostWordShort 0x07 0 0 0)
  | .noCursor                => .host (hostWordShort 0x08 0 0 0)
  | .blink                   => .host (hostWordShort 0x09 0 0 0)
  | .noBlink                 => .host (hostWordShort 0x0A 0 0 0)
  | .scrollLeft              => .host (hostWordShort 0x0B 0 0 0)
  | .scrollRight             => .host (hostWordShort 0x0C 0 0 0)
  | .ltr                     => .host (hostWordShort 0x0D 0 0 0)
  | .rtl                     => .host (hostWordShort 0x0E 0 0 0)
  | .autoscroll              => .host (hostWordShort 0x0F 0 0 0)
  | .noAutoscroll            => .host (hostWordShort 0x10 0 0 0)
  | .createChar slot g0 g1 g2 g3 g4 g5 g6 g7 => .host (hostWord 0x11 slot g0 g1 g2 g3 g4 g5 g6 g7)
  | .write byte              => .host (hostWordShort 0x12 byte 0 0)
  | .command byte            => .host (hostWordShort 0x13 byte 0 0)
  | .sendCommand p           => .frame (frameWord 0xF8 p)
  | .sendData p              => .frame (frameWord 0xFA p)
  | .send b                  => .wireByte b
  | .cmdClear                => .wireCmd cmdClearByte
  | .cmdReturnHome           => .wireCmd cmdReturnHomeByte
  | .cmdEntryModeSet i s     => .wireCmd (cmdEntryModeSetByte i s)
  | .cmdDisplayControl d c b => .wireCmd (cmdDisplayControlByte d c b)
  | .cmdDisplayShift r       => .wireCmd (cmdDisplayShiftByte r)
  | .cmdFunctionSet n f      => .wireCmd (cmdFunctionSetByte n f)
  | .cmdSetCgramAddr slot    => .wireCmd (cmdSetCgramAddrByte slot)
  | .cmdSetDdramAddr a       => .wireCmd (cmdSetDdramAddrByte a)

/-- The opcode byte and the operand bytes of a host operation, as a mask on the command word (30_encoding.md R72, R73; the
first byte of `BEGIN` is its operand `cols`, which has no effect). -/
def operandMask : Instr → CmdWord
  | .begin _ _ _ => 0xFFFFFFFF000000000000
  | .setCursor _ _ => 0xFFFFFF00000000000000
  | .createChar _ _ _ _ _ _ _ _ _ => 0xFFFFFFFFFFFFFFFFFFFF
  | .write _ | .command _ => 0xFFFF0000000000000000
  | _ => 0xFF000000000000000000

/-! ### The rows of spec/opcode_table.json -/

/-- A row's format, match and mask. -/
structure OpcodeRow where
  format : Format
  value  : Nat
  mask   : Nat
  deriving DecidableEq, Repr

/-- The row a constructor stands for, copied from spec/opcode_table.json. -/
def Instr.row : Instr → OpcodeRow
  | .begin _ _ _ => ⟨.host, 0x01000000000000000000, 0xFF000000000000000000⟩
  | .clear => ⟨.host, 0x02000000000000000000, 0xFF000000000000000000⟩
  | .home => ⟨.host, 0x03000000000000000000, 0xFF000000000000000000⟩
  | .setCursor _ _ => ⟨.host, 0x04000000000000000000, 0xFF000000000000000000⟩
  | .display => ⟨.host, 0x05000000000000000000, 0xFF000000000000000000⟩
  | .noDisplay => ⟨.host, 0x06000000000000000000, 0xFF000000000000000000⟩
  | .cursor => ⟨.host, 0x07000000000000000000, 0xFF000000000000000000⟩
  | .noCursor => ⟨.host, 0x08000000000000000000, 0xFF000000000000000000⟩
  | .blink => ⟨.host, 0x09000000000000000000, 0xFF000000000000000000⟩
  | .noBlink => ⟨.host, 0x0A000000000000000000, 0xFF000000000000000000⟩
  | .scrollLeft => ⟨.host, 0x0B000000000000000000, 0xFF000000000000000000⟩
  | .scrollRight => ⟨.host, 0x0C000000000000000000, 0xFF000000000000000000⟩
  | .ltr => ⟨.host, 0x0D000000000000000000, 0xFF000000000000000000⟩
  | .rtl => ⟨.host, 0x0E000000000000000000, 0xFF000000000000000000⟩
  | .autoscroll => ⟨.host, 0x0F000000000000000000, 0xFF000000000000000000⟩
  | .noAutoscroll => ⟨.host, 0x10000000000000000000, 0xFF000000000000000000⟩
  | .createChar _ _ _ _ _ _ _ _ _ => ⟨.host, 0x11000000000000000000, 0xFF000000000000000000⟩
  | .write _ => ⟨.host, 0x12000000000000000000, 0xFF000000000000000000⟩
  | .command _ => ⟨.host, 0x13000000000000000000, 0xFF000000000000000000⟩
  | .sendCommand _ => ⟨.wireFrame, 0xF800, 0xFF00⟩
  | .sendData _ => ⟨.wireFrame, 0xFA00, 0xFF00⟩
  | .send _ => ⟨.wireByte, 0x00, 0x00⟩
  | .cmdClear => ⟨.wireCmd, 0x01, 0xFF⟩
  | .cmdReturnHome => ⟨.wireCmd, 0x02, 0xFF⟩
  | .cmdEntryModeSet _ _ => ⟨.wireCmd, 0x04, 0xFC⟩
  | .cmdDisplayControl _ _ _ => ⟨.wireCmd, 0x08, 0xF8⟩
  | .cmdDisplayShift _ => ⟨.wireCmd, 0x18, 0xFB⟩
  | .cmdFunctionSet _ _ => ⟨.wireCmd, 0x30, 0xF3⟩
  | .cmdSetCgramAddr _ => ⟨.wireCmd, 0x40, 0xC7⟩
  | .cmdSetDdramAddr _ => ⟨.wireCmd, 0x80, 0x80⟩

/-- A request lies in a row: the formats agree and its word under the row's mask is the row's match. -/
def OpcodeRow.holds (r : OpcodeRow) : Request → Bool
  | .host w     => r.format == .host && BitVec.ofNat 80 r.mask &&& w == BitVec.ofNat 80 r.value
  | .frame w    => r.format == .wireFrame && BitVec.ofNat 16 r.mask &&& w == BitVec.ofNat 16 r.value
  | .wireByte b => r.format == .wireByte && BitVec.ofNat 8 r.mask &&& b == BitVec.ofNat 8 r.value
  | .wireCmd b  => r.format == .wireCmd && BitVec.ofNat 8 r.mask &&& b == BitVec.ofNat 8 r.value

/-! ### Words numbered as the table numbers them -/

/-- The request that carries the table word `w` of `nbits` bits. A frame row has 16 bits and a host row 80. Two
formats share 8 bits: a byte that matches a display command pattern is read as that command byte, every other byte as the
operand of `SEND`. DESIGN CHOICE, safe: notes/assumptions/10.md. -/
def requestOfTableWord (nbits w : Nat) : Request :=
  if nbits = 16 then .frame (BitVec.ofNat 16 w)
  else if nbits = 8 then
    match decodeCmd (BitVec.ofNat 8 w) with
    | .ok _    => .wireCmd (BitVec.ofNat 8 w)
    | .error _ => .wireByte (BitVec.ofNat 8 w)
  else .host (BitVec.ofNat 80 w)

/-- The instruction the decoder reads from a table word, `none` where it refuses. -/
def decodeTableWord (nbits w : Nat) : Option Instr :=
  match decode (requestOfTableWord nbits w) with
  | .ok i    => some i
  | .error _ => none

end Sys2Proof
end

