-- ==== Sys2Proof/Machine/CommandBytes.lean ====
section
/-! DEFINITION. The eight display command bytes (30_encoding.md R61 to R69). A command byte is the payload of a
command frame, so its meaning on the wire is one command frame that carries it: no register, no wait (DEDUCED,
notes/assumptions/9.md). The bits a row leaves free come from the byte itself. -/

namespace Sys2Proof.Machine

/-- `CMD_CLEAR` (R62). -/
def cmdClearProgram (s : State) : List Micro := sendCommandMicros s.cfg cmdClearByte

/-- `CMD_CLEAR` (R62). -/
def execCmdClear (s : State) : Out := runProgram (.ok (cmdClearProgram s)) s

/-- `CMD_RETURN_HOME` (R63). -/
def cmdReturnHomeProgram (s : State) : List Micro := sendCommandMicros s.cfg cmdReturnHomeByte

/-- `CMD_RETURN_HOME` (R63). -/
def execCmdReturnHome (s : State) : Out := runProgram (.ok (cmdReturnHomeProgram s)) s

/-- `CMD_ENTRY_MODE_SET` (R64). -/
def cmdEntryModeSetProgram (i s' : Bool) (s : State) : List Micro := sendCommandMicros s.cfg (cmdEntryModeSetByte i s')

/-- `CMD_ENTRY_MODE_SET` (R64). -/
def execCmdEntryModeSet (i s' : Bool) (s : State) : Out := runProgram (.ok (cmdEntryModeSetProgram i s' s)) s

/-- `CMD_DISPLAY_CONTROL` (R65). -/
def cmdDisplayControlProgram (d c b : Bool) (s : State) : List Micro := sendCommandMicros s.cfg (cmdDisplayControlByte d c b)

/-- `CMD_DISPLAY_CONTROL` (R65). -/
def execCmdDisplayControl (d c b : Bool) (s : State) : Out := runProgram (.ok (cmdDisplayControlProgram d c b s)) s

/-- `CMD_DISPLAY_SHIFT` (R66). -/
def cmdDisplayShiftProgram (r : Bool) (s : State) : List Micro := sendCommandMicros s.cfg (cmdDisplayShiftByte r)

/-- `CMD_DISPLAY_SHIFT` (R66). -/
def execCmdDisplayShift (r : Bool) (s : State) : Out := runProgram (.ok (cmdDisplayShiftProgram r s)) s

/-- `CMD_FUNCTION_SET` (R67). -/
def cmdFunctionSetProgram (n f : Bool) (s : State) : List Micro := sendCommandMicros s.cfg (cmdFunctionSetByte n f)

/-- `CMD_FUNCTION_SET` (R67). -/
def execCmdFunctionSet (n f : Bool) (s : State) : Out := runProgram (.ok (cmdFunctionSetProgram n f s)) s

/-- `CMD_SET_CGRAM_ADDR` (R68). -/
def cmdSetCgramAddrProgram (slot : BitVec 3) (s : State) : List Micro := sendCommandMicros s.cfg (cmdSetCgramAddrByte slot)

/-- `CMD_SET_CGRAM_ADDR` (R68). -/
def execCmdSetCgramAddr (slot : BitVec 3) (s : State) : Out := runProgram (.ok (cmdSetCgramAddrProgram slot s)) s

/-- `CMD_SET_DDRAM_ADDR` (R69). -/
def cmdSetDdramAddrProgram (a : BitVec 7) (s : State) : List Micro := sendCommandMicros s.cfg (cmdSetDdramAddrByte a)

/-- `CMD_SET_DDRAM_ADDR` (R69). -/
def execCmdSetDdramAddr (a : BitVec 7) (s : State) : Out := runProgram (.ok (cmdSetDdramAddrProgram a s)) s

end Sys2Proof.Machine
end

