-- ==== Sys2Proof/Machine/Primitives.lean ====
section
/-! DEFINITION. The three internal primitives as instructions (40_bit_serializer.md R90, 41_frame_transmitter.md R100,
R101). No host operation is one of them (44_begin.md R155); a request at the interface of their component runs one (notes/assumptions/8.md). -/

namespace Sys2Proof.Machine

/-- `SENDCOMMAND(p)` (R100). -/
def sendCommandProgram (p : Byte) (s : State) : List Micro := sendCommandMicros s.cfg p

/-- `SENDCOMMAND(p)` (R100). -/
def execSendCommand (p : Byte) (s : State) : Out := runProgram (.ok (sendCommandProgram p s)) s

/-- `SENDDATA(p)` (R101). -/
def sendDataProgram (p : Byte) (s : State) : List Micro := sendDataMicros s.cfg p

/-- `SENDDATA(p)` (R101). -/
def execSendData (p : Byte) (s : State) : Out := runProgram (.ok (sendDataProgram p s)) s

/-- `SEND(b)` (R90). -/
def execSend (b : Byte) (s : State) : Out := runProgram (.ok (sendMicros b)) s

end Sys2Proof.Machine
end

