-- ==== Sys2Proof/Machine/RegisterOps.lean ====
section
/-! DEFINITION. The ten flag-register operations (43_register_ops.md): change one bit, then send the whole register. -/

namespace Sys2Proof.Machine

/-- `DISPLAY` (R131). -/
def displayProgram (s : State) : List Micro :=
  controlMicros s.cfg (setBits s.controlFlags s.cfg.codes.ctlDisplayOn)

/-- `DISPLAY` (R131). -/
def execDisplay (s : State) : Out := runProgram (.ok (displayProgram s)) s

/-- `NODISPLAY` (R132). -/
def noDisplayProgram (s : State) : List Micro :=
  controlMicros s.cfg (clearBits s.controlFlags s.cfg.codes.ctlDisplayOn)

/-- `NODISPLAY` (R132). -/
def execNoDisplay (s : State) : Out := runProgram (.ok (noDisplayProgram s)) s

/-- `CURSOR` (R133). -/
def cursorProgram (s : State) : List Micro :=
  controlMicros s.cfg (setBits s.controlFlags s.cfg.codes.ctlCursorOn)

/-- `CURSOR` (R133). -/
def execCursor (s : State) : Out := runProgram (.ok (cursorProgram s)) s

/-- `NOCURSOR` (R134). -/
def noCursorProgram (s : State) : List Micro :=
  controlMicros s.cfg (clearBits s.controlFlags s.cfg.codes.ctlCursorOn)

/-- `NOCURSOR` (R134). -/
def execNoCursor (s : State) : Out := runProgram (.ok (noCursorProgram s)) s

/-- `BLINK` (R135). -/
def blinkProgram (s : State) : List Micro :=
  controlMicros s.cfg (setBits s.controlFlags s.cfg.codes.ctlBlinkOn)

/-- `BLINK` (R135). -/
def execBlink (s : State) : Out := runProgram (.ok (blinkProgram s)) s

/-- `NOBLINK` (R136). -/
def noBlinkProgram (s : State) : List Micro :=
  controlMicros s.cfg (clearBits s.controlFlags s.cfg.codes.ctlBlinkOn)

/-- `NOBLINK` (R136). -/
def execNoBlink (s : State) : Out := runProgram (.ok (noBlinkProgram s)) s

/-- `LTR` (R137). -/
def ltrProgram (s : State) : List Micro :=
  entryMicros s.cfg (setBits s.entryFlags s.cfg.codes.entLeft)

/-- `LTR` (R137). -/
def execLtr (s : State) : Out := runProgram (.ok (ltrProgram s)) s

/-- `RTL` (R138). -/
def rtlProgram (s : State) : List Micro :=
  entryMicros s.cfg (clearBits s.entryFlags s.cfg.codes.entLeft)

/-- `RTL` (R138). -/
def execRtl (s : State) : Out := runProgram (.ok (rtlProgram s)) s

/-- `AUTOSCROLL` (R139). -/
def autoscrollProgram (s : State) : List Micro :=
  entryMicros s.cfg (setBits s.entryFlags s.cfg.codes.entShiftInc)

/-- `AUTOSCROLL` (R139). -/
def execAutoscroll (s : State) : Out := runProgram (.ok (autoscrollProgram s)) s

/-- `NOAUTOSCROLL` (R140). -/
def noAutoscrollProgram (s : State) : List Micro :=
  entryMicros s.cfg (clearBits s.entryFlags s.cfg.codes.entShiftInc)

/-- `NOAUTOSCROLL` (R140). -/
def execNoAutoscroll (s : State) : Out := runProgram (.ok (noAutoscrollProgram s)) s

end Sys2Proof.Machine
end

