-- ==== Sys2Proof/Machine/Programs.lean ====
section
/-! DEFINITION. The program of every instruction: the statements its meaning runs, for the sequencer, which does them
one event at a time (10_state.md R30, R31). -/

namespace Sys2Proof.Machine

/-- The statements of an instruction accepted in state `s`, or its refusal. -/
def program (i : Instr) (s : State) : Except Refusal (List Micro) :=
  match i with
  | .begin _ rows dotSize => beginProgram rows dotSize s
  | .clear => .ok (clearProgram s)
  | .home => .ok (homeProgram s)
  | .setCursor col row => setCursorProgram col row s
  | .display => .ok (displayProgram s)
  | .noDisplay => .ok (noDisplayProgram s)
  | .cursor => .ok (cursorProgram s)
  | .noCursor => .ok (noCursorProgram s)
  | .blink => .ok (blinkProgram s)
  | .noBlink => .ok (noBlinkProgram s)
  | .scrollLeft => .ok (scrollLeftProgram s)
  | .scrollRight => .ok (scrollRightProgram s)
  | .ltr => .ok (ltrProgram s)
  | .rtl => .ok (rtlProgram s)
  | .autoscroll => .ok (autoscrollProgram s)
  | .noAutoscroll => .ok (noAutoscrollProgram s)
  | .createChar slot g0 g1 g2 g3 g4 g5 g6 g7 => .ok (createCharProgram slot g0 g1 g2 g3 g4 g5 g6 g7 s)
  | .write byte => .ok (writeProgram byte s)
  | .command byte => .ok (commandProgram byte s)
  | .sendCommand p => .ok (sendCommandProgram p s)
  | .sendData p => .ok (sendDataProgram p s)
  | .send b => .ok (sendMicros b)
  | .cmdClear => .ok (cmdClearProgram s)
  | .cmdReturnHome => .ok (cmdReturnHomeProgram s)
  | .cmdEntryModeSet i s' => .ok (cmdEntryModeSetProgram i s' s)
  | .cmdDisplayControl d c b => .ok (cmdDisplayControlProgram d c b s)
  | .cmdDisplayShift r => .ok (cmdDisplayShiftProgram r s)
  | .cmdFunctionSet n f => .ok (cmdFunctionSetProgram n f s)
  | .cmdSetCgramAddr slot => .ok (cmdSetCgramAddrProgram slot s)
  | .cmdSetDdramAddr a => .ok (cmdSetDdramAddrProgram a s)

end Sys2Proof.Machine
end

