-- ==== Sys2Proof/Machine/Dispatch.lean ====
section
/-! DEFINITION. The dispatch: one arm per instruction, each one call of its meaning. -/

namespace Sys2Proof.Machine

def exec (i : Instr) (s : State) : Host.Outcome State Fault Refusal :=
  match i with
  | .begin cols rows dotSize => Sys2Proof.Machine.execBegin cols rows dotSize s
  | .clear => Sys2Proof.Machine.execClear s
  | .home => Sys2Proof.Machine.execHome s
  | .setCursor col row => Sys2Proof.Machine.execSetCursor col row s
  | .display => Sys2Proof.Machine.execDisplay s
  | .noDisplay => Sys2Proof.Machine.execNoDisplay s
  | .cursor => Sys2Proof.Machine.execCursor s
  | .noCursor => Sys2Proof.Machine.execNoCursor s
  | .blink => Sys2Proof.Machine.execBlink s
  | .noBlink => Sys2Proof.Machine.execNoBlink s
  | .scrollLeft => Sys2Proof.Machine.execScrollLeft s
  | .scrollRight => Sys2Proof.Machine.execScrollRight s
  | .ltr => Sys2Proof.Machine.execLtr s
  | .rtl => Sys2Proof.Machine.execRtl s
  | .autoscroll => Sys2Proof.Machine.execAutoscroll s
  | .noAutoscroll => Sys2Proof.Machine.execNoAutoscroll s
  | .createChar slot g0 g1 g2 g3 g4 g5 g6 g7 => Sys2Proof.Machine.execCreateChar slot g0 g1 g2 g3 g4 g5 g6 g7 s
  | .write byte => Sys2Proof.Machine.execWrite byte s
  | .command byte => Sys2Proof.Machine.execCommand byte s
  | .sendCommand p => Sys2Proof.Machine.execSendCommand p s
  | .sendData p => Sys2Proof.Machine.execSendData p s
  | .send b => Sys2Proof.Machine.execSend b s
  | .cmdClear => Sys2Proof.Machine.execCmdClear s
  | .cmdReturnHome => Sys2Proof.Machine.execCmdReturnHome s
  | .cmdEntryModeSet x y => Sys2Proof.Machine.execCmdEntryModeSet x y s
  | .cmdDisplayControl d c b => Sys2Proof.Machine.execCmdDisplayControl d c b s
  | .cmdDisplayShift r => Sys2Proof.Machine.execCmdDisplayShift r s
  | .cmdFunctionSet n f => Sys2Proof.Machine.execCmdFunctionSet n f s
  | .cmdSetCgramAddr slot => Sys2Proof.Machine.execCmdSetCgramAddr slot s
  | .cmdSetDdramAddr a => Sys2Proof.Machine.execCmdSetDdramAddr a s

end Sys2Proof.Machine
end

