-- ==== Sys2Proof/Machine/Sequencer.lean ====
section
/-! DEFINITION. The block at the rising edges of `clk` (30_encoding.md R70): acceptance, one event at a time
(10_state.md R30, R31), the settle timer (60_exceptions.md R168), busy time (70_reset_and_hazards.md R201) and reset at
any edge (60_exceptions.md R162, 70_reset_and_hazards.md R180, R184). -/

namespace Sys2Proof.Machine

/-! ### Time of an event -/

/-- `ceil(T_SETTLE_US * f_clk / 10^6)` for a wait of `us` microseconds (60_exceptions.md R168): the quotient, and one more if it is
not exact. -/
def settleEdges (c : Config) (us : Nat) : Nat :=
  us * c.clkHz / 1000000 + if us * c.clkHz % 1000000 = 0 then 0 else 1

/-- How many edges an event takes (70_reset_and_hazards.md R201), at least one. -/
def eventEdges (c : Config) : Event → Nat
  | .pin _ _ => max 1 c.cyclesPerStep
  | .wait us => max 1 (settleEdges c us)

/-- The next event of a list of statements. -/
def nextEvent : List Micro → Option Event
  | []              => none
  | .write _ _ :: l => nextEvent l
  | .emit e :: _    => some e

/-- Edges that pass before the one at which the next event is done: an event is done at the last edge of its time.
DESIGN CHOICE, unsafe for claims about single edges: notes/assumptions/14.md. -/
def edgesBefore (c : Config) (l : List Micro) : Nat :=
  match nextEvent l with
  | some e => eventEdges c e - 1
  | none   => 0

/-- The edges for which `cmd_ready` stays 0 (70_reset_and_hazards.md R201); an operation without an event takes one
(30_encoding.md R78). -/
def busyEdges (c : Config) (l : List Micro) : Nat :=
  match eventsOf l with
  | [] => 1
  | es => (es.map (eventEdges c)).sum

/-! ### One event -/

/-- The statements up to and with the next event are done; what is left of the list comes back with the state. -/
def stepEvent : List Micro → State → List Micro × State
  | [], s               => ([], s)
  | .write r v :: l, s  => stepEvent l (s.writeReg r v)
  | .emit e :: l, s     => (l, s.emit e)

/-- After an event: busy while an event is left, else idle with the operation complete (10_state.md R31). -/
def State.resume (s : State) (w : CmdWord) (l : List Micro) : State :=
  match nextEvent l with
  | some _ => { s with seq := some ⟨w, l, edgesBefore s.cfg l⟩ }
  | none   => { s.perform l with seq := none }

/-- One edge of the sequencer, with nothing accepted and no reset: an idle block stays as it is, a busy one counts
down and then does its next event. -/
def State.tick (s : State) : State :=
  match s.seq with
  | none => s
  | some b =>
    match b.left with
    | n + 1 => { s with seq := some { b with left := n } }
    | 0     =>
      let r := stepEvent b.todo s
      r.2.resume b.word r.1

/-- `n` edges of the sequencer. -/
def State.ticks (s : State) : Nat → State
  | 0     => s
  | n + 1 => s.tick.ticks n

/-! ### Acceptance -/

/-- An idle block accepts the word `w` (30_encoding.md R70, R71): it is sampled whole and the block is busy. An unassigned
opcode is accepted with no event (30_encoding.md R78; notes/assumptions/11.md). -/
def State.accept (s : State) (w : CmdWord) : Out :=
  match decodeHost w with
  | .error _ => .next { s with seq := some ⟨w, [], 0⟩ }
  | .ok i =>
    match program i s with
    | .ok l    => .next { s with seq := some ⟨w, l, edgesBefore s.cfg l⟩ }
    | .error r => .refused r

/-- One rising edge of `clk` (30_encoding.md R70): `rst` wins (60_exceptions.md R162); a busy block ignores the command port;
an idle one accepts a valid word. -/
def State.clockEdge (s : State) (p : PortIn) : Out :=
  if p.rst then .next s.resetBlock
  else if s.cmdReady then
    if p.cmdValid then s.accept p.cmd else .next s
  else .next s.tick

end Sys2Proof.Machine
end

