-- ==== Sys2Proof/Machine/Step.lean ====
section
/-! DEFINITION. One step of the machine. The host's next act decides it (notes/assumptions/5.md, 6.md): one clock edge is
`clockEdge`; a call of a command word is held while the block is busy and runs as one whole operation when it is idle; with no act
left, one clock edge passes. A request placed at an inner component goes first (notes/assumptions/8.md). -/

namespace Sys2Proof.Machine

/-- A word that is no instruction, refused by its name (60_exceptions.md R171). -/
def refuseWord : DecodeError → Refusal
  | .unassignedOpcode op => .unassignedOpcode op
  | .unknownMarker m     => .unknownMarker m
  | .notACommandByte b   => .notACommandByte b

/-- The request an inner component is given. -/
def innerRequest : Inner → Request
  | .frame w    => .frame w
  | .wireByte b => .wireByte b
  | .wireCmd b  => .wireCmd b

/-- A request at an idle block: the word is decoded and its instruction runs to completion (20_memory.md R45, R52). -/
def runCall (r : Request) (s : State) : Out :=
  match decode r with
  | .ok i    => exec i s
  | .error e => .refused (refuseWord e)

/-- One step. -/
def step (s : State) : Host.Outcome State Fault Refusal :=
  match s.inner with
  | some q => if s.cmdReady then runCall (innerRequest q) { s with inner := none } else .next s.tick
  | none =>
    match s.host with
    | .edge p :: rest => State.clockEdge { s with host := rest } p
    | .call w :: rest => if s.cmdReady then runCall (.host w) { s with host := rest } else .next s.tick
    | []              => .next s.tick

/-- `s` with the instruction of a table word placed at the interface that takes it, at an idle block, so that the next step runs it: a
command word as the host's next call, any other word at its inner component (DESIGN CHOICE, notes/assumptions/5.md, 8.md, 10.md). -/
def State.withFetchWord (s : State) (nbits w : Nat) : State :=
  match requestOfTableWord nbits w with
  | .host c     => { s with seq := none, inner := none, host := .call c :: s.host }
  | .frame f    => { s with seq := none, inner := some (.frame f) }
  | .wireByte b => { s with seq := none, inner := some (.wireByte b) }
  | .wireCmd b  => { s with seq := none, inner := some (.wireCmd b) }

end Sys2Proof.Machine
end

