-- ==== Sys2Proof/Machine/Wire.lean ====
section
/-! DEFINITION. Reading a trace: the frame view (20_memory.md R46), wire-equivalence (00_scope.md R11), and the clock edges and
pin rules a trace is judged by (40_bit_serializer.md R91, R92, 41_frame_transmitter.md R102). -/

namespace Sys2Proof.Machine

/-- The three pin levels. -/
structure Pins where
  sck : Level
  sda : Level
  csn : Level
  deriving DecidableEq, Repr

/-- The pin levels of a state. -/
def State.pins (s : State) : Pins := ⟨s.sck, s.sda, s.csn⟩

/-- The level of a pin. -/
def Pins.get (q : Pins) : Pin → Level
  | .sck => q.sck
  | .sda => q.sda
  | .csn => q.csn

/-- A pin takes a level. -/
def Pins.set (q : Pins) (p : Pin) (l : Level) : Pins :=
  match p with
  | .sck => { q with sck := l }
  | .sda => { q with sda := l }
  | .csn => { q with csn := l }

/-- The pin levels after an event. -/
def Pins.after (q : Pins) : Event → Pins
  | .pin p l => q.set p l
  | .wait _  => q

/-- The pin levels after a list of events. -/
def Pins.afterAll (q : Pins) (es : List Event) : Pins := es.foldl Pins.after q

/-! ### Edges of the clock -/

/-- The event is a rising edge of `SCK`. -/
def Pins.rises (q : Pins) (e : Event) : Bool := e == .pin .sck true && !q.sck

/-- The event is a falling edge of `SCK`. -/
def Pins.falls (q : Pins) (e : Event) : Bool := e == .pin .sck false && q.sck

/-- How many rising edges of `SCK` a list of events makes. -/
def risingEdges (q : Pins) : List Event → Nat
  | []      => 0
  | e :: es => (if q.rises e then 1 else 0) + risingEdges (q.after e) es

/-- How many falling edges of `SCK` a list of events makes. -/
def fallingEdges (q : Pins) : List Event → Nat
  | []      => 0
  | e :: es => (if q.falls e then 1 else 0) + fallingEdges (q.after e) es

/-- The `SDA` level at each rising edge of `SCK`, in order. -/
def sampledBits (q : Pins) : List Event → List Level
  | []      => []
  | e :: es => (if q.rises e then [q.sda] else []) ++ sampledBits (q.after e) es

/-! ### Rules on a trace, as checks -/

/-- `SDA` is driven only while `SCK` is low (40_bit_serializer.md R92). -/
def dataWhileLow (q : Pins) : List Event → Bool
  | []      => true
  | e :: es =>
    (match e with
     | .pin .sda _ => !q.sck
     | _           => true) && dataWhileLow (q.after e) es

/-- `CSN` is low at each rising edge of `SCK`, and moves only while `SCK` is high (41_frame_transmitter.md R102). -/
def selectBrackets (q : Pins) : List Event → Bool
  | []      => true
  | e :: es =>
    (match e with
     | .pin .csn _ => q.sck
     | _           => !q.rises e || !q.csn) && selectBrackets (q.after e) es

/-- How many times `CSN` falls. -/
def selectFalls (q : Pins) : List Event → Nat
  | []      => 0
  | e :: es => (if e == .pin .csn false && q.csn then 1 else 0) + selectFalls (q.after e) es

/-- An event drives `CSN`. -/
def Event.drivesSelect : Event → Bool
  | .pin .csn _ => true
  | _           => false

/-- An event is a pin event. -/
def Event.isPin : Event → Bool
  | .pin _ _ => true
  | .wait _  => false

/-! ### The frame view -/

/-- What a trace carries: command frames, data frames and waits; `other` is a frame with another marker, which the block never
sends (30_encoding.md R79; notes/assumptions/16.md). -/
inductive Item where
  | cmd (p : Byte)
  | data (p : Byte)
  | wait (n : Nat)
  | other (marker p : Byte)
  deriving DecidableEq, Repr

/-- Sampled bits as a byte, the first most significant (20_memory.md R42, R46). -/
def byteOfBits (l : List Level) : Byte := l.foldl (fun b v => (b <<< 1) ||| (if v then 1 else 0)) 0

/-- A frame by its marker (20_memory.md R46). -/
def frameItem (marker p : Byte) : Item :=
  if marker = frameCommand then .cmd p else if marker = frameData then .data p else .other marker p

/-- The walk of 20_memory.md R46: pin levels, bits of an unfinished frame, items so far. -/
structure View where
  pins  : Pins
  bits  : List Level
  items : List Item
  deriving DecidableEq, Repr

/-- A sampled bit; the sixteenth finishes a frame. -/
def View.sample (v : View) (b : Level) : View :=
  let bits := v.bits ++ [b]
  if bits.length = 16 then
    { v with bits := [], items := v.items ++ [frameItem (byteOfBits (bits.take 8)) (byteOfBits (bits.drop 8))] }
  else { v with bits := bits }

/-- One event of the walk. 20_memory.md R46 speaks only of a wait in its place between frames; where bits of an unfinished frame
are pending the model appends the wait's item at once, before that frame's item (DESIGN CHOICE, notes/assumptions/16.md). -/
def View.event (v : View) (e : Event) : View :=
  match e with
  | .wait n => { v with items := v.items ++ [.wait n] }
  | .pin _ _ =>
    let v' := if v.pins.rises e then v.sample v.pins.sda else v
    { v' with pins := v.pins.after e }

/-- The walk over a list of events. -/
def View.run (v : View) (es : List Event) : View := es.foldl View.event v

/-- The walk before any event: at a frame boundary. -/
def View.start (q : Pins) : View := ⟨q, [], []⟩

/-- The frame view of events that start at pin levels `q` (20_memory.md R46). -/
def frameView (q : Pins) (es : List Event) : List Item := ((View.start q).run es).items

/-- The events end at a frame boundary: no bit of an unfinished frame is left over. -/
def wholeFrames (q : Pins) (es : List Event) : Bool := ((View.start q).run es).bits.isEmpty

/-- The events that `p` picks happen only where the walk is at a frame boundary, no bit of an unfinished frame being pending. -/
def View.onlyAtBoundary (p : Event → Bool) (v : View) : List Event → Bool
  | []      => true
  | e :: es => (!p e || v.bits.isEmpty) && (v.event e).onlyAtBoundary p es

/-- No wait falls inside a frame (20_memory.md R46). -/
def waitsBetweenFrames (q : Pins) (es : List Event) : Bool :=
  (View.start q).onlyAtBoundary (fun e => !e.isPin) es

/-- `CSN` is driven only between frames, not between the two bytes of one (20_memory.md R44, 41_frame_transmitter.md R102). -/
def selectBetweenFrames (q : Pins) (es : List Event) : Bool :=
  (View.start q).onlyAtBoundary Event.drivesSelect es

/-- Each bracket of `CSN` holds exactly the sixteen rising clock edges of one frame (41_frame_transmitter.md R102), `n` being the rising
edges since `CSN` last fell. -/
def bracketsHoldOneFrame (q : Pins) (n : Nat) : List Event → Bool
  | []      => true
  | e :: es =>
    if e == .pin .csn false && q.csn then bracketsHoldOneFrame (q.after e) 0 es
    else if e == .pin .csn true && !q.csn then n == 16 && bracketsHoldOneFrame (q.after e) n es
    else bracketsHoldOneFrame (q.after e) (n + if q.rises e then 1 else 0) es

/-! ### Wire-equivalence -/

/-- The event drives a pin to the level it has (00_scope.md R11). -/
def Pins.redundant (q : Pins) : Event → Bool
  | .pin p l => q.get p == l
  | .wait _  => false

/-- A trace without its redundant drives; waits stay (00_scope.md R11). -/
def reduce (q : Pins) : List Event → List Event
  | []      => []
  | e :: es => if q.redundant e then reduce (q.after e) es else e :: reduce (q.after e) es

/-- Two traces are wire-equivalent from pin levels `q` (00_scope.md R11). -/
def WireEquiv (q : Pins) (a b : List Event) : Prop := reduce q a = reduce q b

end Sys2Proof.Machine
end

