-- ==== Sys2Proof/Safety.lean ====
section
/-! DEFINITION. The terms claims are made in: what an operation puts on the wire, how long the block is busy, and the
invariants of 10_state.md R26, R32 to R34 and 20_memory.md R44. -/

namespace Sys2Proof.Machine

/-! ### What an operation does -/

/-- The 25 events of `SEND(b)`, in order, as 40_bit_serializer.md R90 lists them. -/
def sendEvents (b : Byte) : List Event :=
  [.pin .sck true,
   .pin .sck false, .pin .sda (b.getLsbD 7), .pin .sck true,
   .pin .sck false, .pin .sda (b.getLsbD 6), .pin .sck true,
   .pin .sck false, .pin .sda (b.getLsbD 5), .pin .sck true,
   .pin .sck false, .pin .sda (b.getLsbD 4), .pin .sck true,
   .pin .sck false, .pin .sda (b.getLsbD 3), .pin .sck true,
   .pin .sck false, .pin .sda (b.getLsbD 2), .pin .sck true,
   .pin .sck false, .pin .sda (b.getLsbD 1), .pin .sck true,
   .pin .sck false, .pin .sda (b.getLsbD 0), .pin .sck true]

/-- The events of a frame, as 41_frame_transmitter.md R100 and R101 list them. -/
def frameEventList (c : Config) (marker p : Byte) : List Event :=
  (if c.hasSelect then [.pin .csn false] else []) ++ sendEvents marker ++ sendEvents p ++
    (if c.hasSelect then [.pin .csn true] else [])

/-- `Pin` events of one frame (70_reset_and_hazards.md R200). -/
def frameEvents (c : Config) : Nat := if c.hasSelect then 52 else 50

/-- Events of one item of a frame view. -/
def itemEvents (c : Config) : Item → Nat
  | .wait _ => 1
  | _       => frameEvents c

/-- The events of one item of a frame view, as 41_frame_transmitter.md R100, R101 and 60_exceptions.md R168 list them. -/
def itemEventList (c : Config) : Item → List Event
  | .cmd p     => frameEventList c 0xF8 p
  | .data p    => frameEventList c 0xFA p
  | .wait n    => [.wait n]
  | .other m p => frameEventList c m p

/-- `s` after an operation that emitted the events `es` and whose last bit sent is `last`: nothing but the pins and the trace differs,
the clock is high, and the select line, if there is one, is deasserted. -/
def State.sent (s : State) (last : Level) (es : List Event) : State :=
  { s with
    sck := true
    sda := last
    csn := if s.cfg.hasSelect then true else s.csn
    trace := s.trace ++ es }

/-- The events `es`, emitted from `s`, carry the items: they are the events of the items one after the other, so many as
70_reset_and_hazards.md R200 gives, and from a high clock their frame view (20_memory.md R46) is the items, with no bit left over and
no wait inside a frame. -/
def Carries (s : State) (es : List Event) (items : List Item) : Prop :=
  es = items.flatMap (itemEventList s.cfg) ∧
    es.length = (items.map (itemEvents s.cfg)).sum ∧
    (s.sck = true →
      frameView s.pins es = items ∧ wholeFrames s.pins es = true ∧ waitsBetweenFrames s.pins es = true)

/-- Instruction `i` in state `s` completes: its register writes turn `s` into `s₁`, and it sends the items, `last` being the last bit
on the wire. Everything else is as in `s₁`. -/
def Completes (i : Instr) (s s₁ : State) (last : Level) (items : List Item) : Prop :=
  ∃ es, exec i s = .next (s₁.sent last es) ∧ Carries s es items

/-- The six operations on `controlFlags`, each with what it makes of the register (43_register_ops.md R131 to R136). -/
def controlOps (c : Codes) : List (Instr × (Byte → Byte)) :=
  [(.display, fun r => r ||| c.ctlDisplayOn), (.noDisplay, fun r => r &&& ~~~c.ctlDisplayOn),
   (.cursor, fun r => r ||| c.ctlCursorOn), (.noCursor, fun r => r &&& ~~~c.ctlCursorOn),
   (.blink, fun r => r ||| c.ctlBlinkOn), (.noBlink, fun r => r &&& ~~~c.ctlBlinkOn)]

/-- The four operations on `entryFlags` (43_register_ops.md R137 to R140). -/
def entryOps (c : Codes) : List (Instr × (Byte → Byte)) :=
  [(.ltr, fun r => r ||| c.entLeft), (.rtl, fun r => r &&& ~~~c.entLeft),
   (.autoscroll, fun r => r ||| c.entShiftInc), (.noAutoscroll, fun r => r &&& ~~~c.entShiftInc)]

/-- The five pairs of a set-type operation and its clear-type partner, with register and mask (43_register_ops.md R142). -/
def flagPairs (c : Codes) : List (Instr × Instr × Reg × Byte) :=
  [(.display, .noDisplay, .controlFlags, c.ctlDisplayOn), (.cursor, .noCursor, .controlFlags, c.ctlCursorOn),
   (.blink, .noBlink, .controlFlags, c.ctlBlinkOn), (.ltr, .rtl, .entryFlags, c.entLeft),
   (.autoscroll, .noAutoscroll, .entryFlags, c.entShiftInc)]

/-- What the last of `on` and `off` in a sequence says; `d` if neither occurs (43_register_ops.md R141). -/
def lastSetting (on off : Instr) (d : Bool) (is : List Instr) : Bool :=
  is.foldl (fun b i => if i = on then true else if i = off then false else b) d

/-- The bits a `BEGIN` requests of `functionFlags` (44_begin.md R150, R153). -/
def requestedBits (c : Codes) (rows dotSize : Byte) : Byte :=
  if 1 < rows.toNat then c.fn2Line else if dotSize ≠ 0 then c.fn5x10 else 0

/-- The registers an instruction writes (10_state.md R38). -/
def writtenRegs : Instr → List Reg
  | .begin _ _ _ => [.functionFlags, .controlFlags, .entryFlags, .lineCount, .currentLine]
  | .clear => [.currentLine]
  | .display | .noDisplay | .cursor | .noCursor | .blink | .noBlink => [.controlFlags]
  | .ltr | .rtl | .autoscroll | .noAutoscroll => [.entryFlags]
  | _ => []

/-- The value of a register. -/
def State.reg (s : State) : Reg → Byte
  | .functionFlags => s.functionFlags
  | .controlFlags  => s.controlFlags
  | .entryFlags    => s.entryFlags
  | .lineCount     => s.lineCount
  | .currentLine   => s.currentLine

/-- Frames an instruction sends (70_reset_and_hazards.md R200); `SEND` alone sends half of one. -/
def framesSent : Instr → Nat
  | .begin _ _ _ => 7
  | .createChar _ _ _ _ _ _ _ _ _ => 9
  | .send _ => 0
  | _ => 1

/-- Waits an instruction makes (70_reset_and_hazards.md R200). -/
def waitsMade : Instr → Nat
  | .begin _ _ _ => 2
  | .clear | .home => 1
  | _ => 0

/-- The instruction is the lone-byte primitive. -/
def isLoneByte : Instr → Bool
  | .send _ => true
  | _ => false

/-- Instructions one after the other, each from the state the one before left. -/
def execAll : List Instr → State → Out
  | [], s => .next s
  | i :: is, s =>
    match exec i s with
    | .next t    => execAll is t
    | .fault f   => .fault f
    | .refused r => .refused r

/-! ### Clock edges -/

/-- `u` is busy for exactly `n` edges of the sequencer: `cmd_ready` is 0 before each of them and 1 after the last
(70_reset_and_hazards.md R201). -/
def BusyFor (u : State) (n : Nat) : Prop :=
  (∀ k, k < n → (u.ticks k).cmdReady = false) ∧ (u.ticks n).cmdReady = true

/-! ### Invariants -/

/-- The state in which the operation in progress, if any, is complete (10_state.md R31). -/
def State.settled (s : State) : State :=
  match s.seq with
  | none   => s
  | some b => { s.perform b.todo with seq := none }

/-- The pin levels after reset (10_state.md R35). -/
def resetPins : Pins := ⟨resetSck, resetSda, resetCsn⟩

/-- At the next idle point `SCK = 1` and `CSN = 1` (10_state.md R32). -/
def IdlePinsInv (s : State) : Prop := s.settled.sck = true ∧ s.settled.csn = true

/-- At the next idle point the flag registers hold no bit outside their fields, and the bus-width marker is set (10_state.md R33);
it depends on the default flag constants, as that rule says. -/
def FlagRangeInv (s : State) : Prop :=
  s.cfg.codes = defaultCodes ∧
    s.settled.functionFlags &&& ~~~0x1C = 0 ∧ s.settled.functionFlags &&& 0x10 = 0x10 ∧
    s.settled.controlFlags &&& ~~~0x07 = 0 ∧ s.settled.entryFlags &&& ~~~0x03 = 0

/-- At the next idle point `lineCount ≥ 1` (10_state.md R34). -/
def LineCountInv (s : State) : Prop := 1 ≤ s.settled.lineCount.toNat

/-- The latches hold what the drives in the trace left, starting from reset (10_state.md R26). -/
def PinsFollowTraceInv (s : State) : Prop := s.pins = resetPins.afterAll s.trace

/-- No lone byte is placed at the Bit Serializer: every operation is one of whole frames (20_memory.md R41, R44). The host cannot place
one (44_begin.md R155). -/
def NoLoneByte (s : State) : Prop := ∀ b, s.inner ≠ some (.wireByte b)

/-- At the next idle point the trace since reset is whole frames, each with one of the two markers, and waits between them
(20_memory.md R44, R46, 30_encoding.md R60), none inside a frame, and the clock is high for the next frame. -/
def WholeFramesInv (s : State) : Prop :=
  NoLoneByte s ∧ PinsFollowTraceInv s ∧ s.settled.sck = true ∧
    wholeFrames resetPins s.settled.trace = true ∧ waitsBetweenFrames resetPins s.settled.trace = true ∧
    ∀ m p, Item.other m p ∉ frameView resetPins s.settled.trace

end Sys2Proof.Machine
end

