-- ==== Sys2Proof/WellFormed.lean ====
section
/-! DEFINITION. What a host may issue and what an instantiator may choose. Every field of an instruction has the
exact width of its encoding, so the one check on an instruction is the host's duty of 60_exceptions.md R173. -/

namespace Sys2Proof

/-- The host must not present `BEGIN` with `rows = 0` (60_exceptions.md R173, 70_reset_and_hazards.md R188);
every other operation with every operand value may be issued (60_exceptions.md R171). -/
def Instr.wellFormed : Instr → Bool
  | .begin _ rows _ => rows != 0
  | _ => true

/-- The bounds 00_scope.md R6 puts on the parameters, and a running clock (70_reset_and_hazards.md R186). -/
def Config.wellFormed (c : Config) : Bool :=
  decide (2000 ≤ c.settleUs) && decide (1 ≤ c.cyclesPerStep) && decide (1 ≤ c.clkHz)

end Sys2Proof
end

