-- ==== Sys2Proof/Certificates/Slice0/Obligations.lean ====
section
/-! DEFINITION. The statements for the provers, from the numbered rules of spec/. Where a statement rests on the default
flag constants of 00_scope.md R6 it names them (`defaultCodes`); every other statement holds for every configuration. -/

open Sys2Proof Sys2Proof.Machine

/-! ### Decoding and encoding -/

/-- No bit of an encoding is dropped: 30_encoding.md R60, R61, R71 to R73, for every instruction and operand. -/
def Obligations.DecodeOfEncodeIsTheInstruction : Prop :=
  ∀ i : Instr, decode (encode i) = .ok i

/-- 30_encoding.md R71, R73: a host word is its opcode and its operand bytes; every other byte is ignored. -/
def Obligations.HostWordIsItsOpcodeAndOperands : Prop :=
  ∀ (w : CmdWord) (i : Instr), decode (.host w) = .ok i → encode i = .host (w &&& operandMask i)

/-- 30_encoding.md R72, R78: opcodes 0x01 to 0x13 are the table's host rows in their order; every other opcode is none. -/
def Obligations.HostOpcodesOneToNineteenDecode : Prop :=
  ∀ w : CmdWord,
    ((1 ≤ (CmdWord.op w).toNat ∧ (CmdWord.op w).toNat ≤ 0x13) →
      ∃ i, decode (.host w) = .ok i ∧ i.row.format = .host ∧ i.row.value = (CmdWord.op w).toNat * 2 ^ 72) ∧
    (¬ (1 ≤ (CmdWord.op w).toNat ∧ (CmdWord.op w).toNat ≤ 0x13) →
      decode (.host w) = .error (.unassignedOpcode (CmdWord.op w)))

/-- 30_encoding.md R61: a byte is at most one of the eight command bytes, and is read as the one whose pattern it
has. The patterns rest on the default constants (notes/assumptions/2.md). -/
def Obligations.CommandByteDecodesToItsOwnRow : Prop :=
  ∀ (b : Byte) (i : Instr), decode (.wireCmd b) = .ok i ↔ encode i = .wireCmd b

/-- 30_encoding.md R60, R79: the marker decides what a frame is (the refusal of other markers is the model's, notes/assumptions/12.md). -/
def Obligations.FrameWordDecodesByItsMarker : Prop :=
  ∀ m p : Byte, decode (.frame (frameWord m p)) =
    if m = 0xF8 then .ok (.sendCommand p)
    else if m = 0xFA then .ok (.sendData p)
    else .error (.unknownMarker m)

/-- A few words written out from 30_encoding.md R60, R61, R71, R72, 40_bit_serializer.md R90 and 95_test_vectors.md, one or more of each of
the four formats. The display command bytes rest on the default constants (notes/assumptions/2.md). -/
def Obligations.WordsOfTheSpecDecode : Prop :=
  decode (.host 0x01140200000000000000) = .ok (.begin 20 2 0) ∧
  decode (.host 0x0413FF00000000000000) = .ok (.setCursor 19 255) ∧
  decode (.host 0x02FFFFFFFFFFFFFFFFFF) = .ok .clear ∧
  decode (.host 0x0E000000000000000000) = .ok .rtl ∧
  decode (.host 0x11090E1B111111111F00) = .ok (.createChar 9 0x0E 0x1B 0x11 0x11 0x11 0x11 0x1F 0x00) ∧
  decode (.host 0x12415A00000000000000) = .ok (.write 0x41) ∧
  decode (.frame 0xF801) = .ok (.sendCommand 0x01) ∧
  decode (.frame 0xFA41) = .ok (.sendData 0x41) ∧
  decode (.wireByte 0xA5) = .ok (.send 0xA5) ∧
  decode (.wireCmd 0x0E) = .ok (.cmdDisplayControl true true false) ∧
  decode (.wireCmd 0x48) = .ok (.cmdSetCgramAddr 1) ∧
  decode (.wireCmd 0xC5) = .ok (.cmdSetDdramAddr 0x45)

/-- 30_encoding.md R61, R64, R65, R67 with 10_state.md R33: a flag register in its range, OR'd with its opcode, is the command byte whose
letters are the register's bits. The bit places are the default constants' (notes/assumptions/2.md). -/
def Obligations.FlagPayloadsAreTheirCommandBytes : Prop :=
  ∀ r : Byte,
    (r &&& ~~~0x03 = 0 →
      decode (.wireCmd (0x04 ||| r)) = .ok (.cmdEntryModeSet (r.getLsbD 1) (r.getLsbD 0))) ∧
    (r &&& ~~~0x07 = 0 →
      decode (.wireCmd (0x08 ||| r)) = .ok (.cmdDisplayControl (r.getLsbD 2) (r.getLsbD 1) (r.getLsbD 0))) ∧
    (r &&& ~~~0x1C = 0 → r &&& 0x10 = 0x10 →
      decode (.wireCmd (0x20 ||| r)) = .ok (.cmdFunctionSet (r.getLsbD 3) (r.getLsbD 2)))

/-! ### The step -/

/-- A command word called at an idle block runs the decoded instruction (the host's list is the model's, notes/assumptions/5.md), and so
does a request placed at an inner component, which goes before the host's acts (the model's choice, notes/assumptions/8.md). -/
def Obligations.StepRunsTheDecodedInstruction : Prop :=
  (∀ (s : State) (w : CmdWord) (rest : List HostAct) (i : Instr),
    s.inner = none → s.host = .call w :: rest → s.cmdReady = true → decode (.host w) = .ok i →
      step s = exec i { s with host := rest }) ∧
  (∀ (s : State) (q : Inner) (i : Instr),
    s.inner = some q → s.cmdReady = true → decode (innerRequest q) = .ok i →
      step s = exec i { s with inner := none })

/-- What a step is otherwise: a clock edge of the host's, or one edge of the sequencer. While the block is busy a call stays
presented (60_exceptions.md R173; the host's list is the model's, notes/assumptions/5.md, 6.md). -/
def Obligations.StepIsAnEdgeOtherwise : Prop :=
  ∀ s : State,
    (∀ p rest, s.inner = none → s.host = .edge p :: rest → step s = State.clockEdge { s with host := rest } p) ∧
    (s.inner = none → s.host = [] → step s = .next s.tick) ∧
    (∀ w rest, s.inner = none → s.host = .call w :: rest → s.cmdReady = false →
      step s = .next s.tick ∧ s.tick.host = .call w :: rest) ∧
    (∀ q, s.inner = some q → s.cmdReady = false → step s = .next s.tick ∧ s.tick.inner = some q)

/-- 60_exceptions.md R171 with 30_encoding.md R78: a call of an unassigned opcode is refused by its name. -/
def Obligations.StepRefusesUnassignedOpcodes : Prop :=
  ∀ (s : State) (w : CmdWord) (rest : List HostAct),
    s.inner = none → s.host = .call w :: rest → s.cmdReady = true →
    (CmdWord.op w = 0 ∨ 0x14 ≤ (CmdWord.op w).toNat) →
      step s = .refused (.unassignedOpcode (CmdWord.op w))

/-- 44_begin.md R155, 30_encoding.md R72: what the host can make the block do is the nineteen host operations and clock edges, and no step
places a request at an inner component. -/
def Obligations.HostSurfaceIsTheNineteenOperations : Prop :=
  (∀ (w : CmdWord) (i : Instr), decode (.host w) = .ok i → i.row.format = .host) ∧
  ∀ s t : State, s.inner = none → step s = .next t →
    t.inner = none ∧
    (t = s.tick ∨
      (∃ p rest, s.host = .edge p :: rest ∧ State.clockEdge { s with host := rest } p = .next t) ∨
      (∃ w rest i, s.host = .call w :: rest ∧ decode (.host w) = .ok i ∧ i.row.format = .host ∧
        exec i { s with host := rest } = .next t))

/-- The fetch of a table word: the next step is the meaning of the instruction the decoder reads from it. Where the word is placed, and
how a word of eight bits is read, are the model's choices (notes/assumptions/5.md, 8.md, 10.md). -/
def Obligations.FetchedWordRunsNext : Prop :=
  ∀ (s : State) (nbits w : Nat) (i : Instr),
    decodeTableWord nbits w = some i →
      step (s.withFetchWord nbits w) = exec i { s with seq := none, inner := none }

/-! ### The primitives -/

/-- 40_bit_serializer.md R90: exactly these 25 events, from every state; `CSN` and the registers are not touched. -/
def Obligations.SendEmitsItsTwentyFiveEvents : Prop :=
  ∀ (b : Byte) (s : State),
    exec (.send b) s = .next { s with sck := true, sda := b.getLsbD 0, trace := s.trace ++ sendEvents b }

/-- 40_bit_serializer.md R91: eight clock pulses that sample the byte, most significant bit first; nine rising edges if the clock
starts low, the first sampling the old data level. -/
def Obligations.SendClocksEightBits : Prop :=
  ∀ (b : Byte) (s : State), ∃ t es,
    exec (.send b) s = .next t ∧ t.trace = s.trace ++ es ∧ t.sck = true ∧ t.sda = b.getLsbD 0 ∧
    (s.sck = true →
      risingEdges s.pins es = 8 ∧ fallingEdges s.pins es = 8 ∧
      sampledBits s.pins es = [b.getLsbD 7, b.getLsbD 6, b.getLsbD 5, b.getLsbD 4,
        b.getLsbD 3, b.getLsbD 2, b.getLsbD 1, b.getLsbD 0]) ∧
    (s.sck = false →
      risingEdges s.pins es = 9 ∧
      sampledBits s.pins es = [s.sda, b.getLsbD 7, b.getLsbD 6, b.getLsbD 5, b.getLsbD 4,
        b.getLsbD 3, b.getLsbD 2, b.getLsbD 1, b.getLsbD 0])

/-- 41_frame_transmitter.md R100, R101: marker, payload, one chip-select bracket around both when there is a select line; the frame
view is `Cmd(p)` or `Data(p)`. -/
def Obligations.FramesAreMarkerThenPayload : Prop :=
  ∀ (p : Byte) (s : State),
    exec (.sendCommand p) s = .next (s.sent (p.getLsbD 0) (frameEventList s.cfg 0xF8 p)) ∧
    exec (.sendData p) s = .next (s.sent (p.getLsbD 0) (frameEventList s.cfg 0xFA p)) ∧
    Completes (.sendCommand p) s s (p.getLsbD 0) [.cmd p] ∧
    Completes (.sendData p) s s (p.getLsbD 0) [.data p]

/-! ### Operations that touch no flag register -/

/-- 42_display_commands.md R110: one frame, `currentLine` 0, one settle wait, of at least 2 ms where the configuration is well formed, and
the block busy until it is over. That `cmd_ready` returns after exactly these edges is the model's choice: the spec gives a lower bound
(notes/assumptions/14.md, 20.md). -/
def Obligations.ClearSendsAndSettles : Prop :=
  (∀ w : CmdWord, CmdWord.op w = 0x02 → decode (.host w) = .ok .clear) ∧
  ∀ s : State,
    Completes .clear s { s with currentLine := 0 } true [.cmd 0x01, .wait s.cfg.settleUs] ∧
    (s.cfg.wellFormed = true → 2000 ≤ s.cfg.settleUs) ∧
    ∀ w : CmdWord, CmdWord.op w = 0x02 → s.cmdReady = true →
      ∃ u, s.accept w = .next u ∧
        BusyFor u (frameEvents s.cfg * max 1 s.cfg.cyclesPerStep + max 1 (settleEdges s.cfg s.cfg.settleUs))

/-- 42_display_commands.md R111: one frame and one settle wait, of at least 2 ms where the configuration is well formed; no register is
written; the block is busy until the wait is over. That `cmd_ready` returns after exactly these edges is the model's choice: the spec
gives a lower bound (notes/assumptions/14.md, 20.md). -/
def Obligations.HomeSendsAndSettles : Prop :=
  (∀ w : CmdWord, CmdWord.op w = 0x03 → decode (.host w) = .ok .home) ∧
  ∀ s : State,
    exec .home s = .next (s.sent false (frameEventList s.cfg 0xF8 0x02 ++ [.wait s.cfg.settleUs])) ∧
    (s.cfg.wellFormed = true → 2000 ≤ s.cfg.settleUs) ∧
    Completes .home s s false [.cmd 0x02, .wait s.cfg.settleUs] ∧
    ∀ w : CmdWord, CmdWord.op w = 0x03 → s.cmdReady = true →
      ∃ u, s.accept w = .next u ∧
        BusyFor u (frameEvents s.cfg * max 1 s.cfg.cyclesPerStep + max 1 (settleEdges s.cfg s.cfg.settleUs))

/-- 42_display_commands.md R112: the row clamped to `lineCount - 1`, the column added to its offset modulo 256, the sum OR'd with 0x80;
refused when the clamped row is above 3. -/
def Obligations.SetCursorAddressesTheClampedRow : Prop :=
  (∀ w : CmdWord, CmdWord.op w = 0x04 →
    decode (.host w) = .ok (.setCursor (CmdWord.operand w 0) (CmdWord.operand w 1))) ∧
  ∀ (col row : Byte) (s : State), 1 ≤ s.lineCount.toNat →
    (∀ off : Byte, ([0x00, 0x40, 0x14, 0x54] : List Byte)[min row.toNat (s.lineCount.toNat - 1)]? = some off →
      Completes (.setCursor col row) s s ((0x80 ||| (col + off)).getLsbD 0) [.cmd (0x80 ||| (col + off))]) ∧
    (3 < min row.toNat (s.lineCount.toNat - 1) →
      exec (.setCursor col row) s = .refused .rowOffsetOutOfTable)

/-- 42_display_commands.md R113, R114: one shift command each, with the direction's bit; 0x18 and 0x1C with the default constants. -/
def Obligations.ScrollsSendTheirShiftCommand : Prop :=
  (∀ w : CmdWord, CmdWord.op w = 0x0B → decode (.host w) = .ok .scrollLeft) ∧
  (∀ w : CmdWord, CmdWord.op w = 0x0C → decode (.host w) = .ok .scrollRight) ∧
  ∀ s : State,
    Completes .scrollLeft s s ((0x10 ||| 0x08 ||| s.cfg.codes.moveLeft).getLsbD 0)
      [.cmd (0x10 ||| 0x08 ||| s.cfg.codes.moveLeft)] ∧
    Completes .scrollRight s s ((0x10 ||| 0x08 ||| s.cfg.codes.moveRight).getLsbD 0)
      [.cmd (0x10 ||| 0x08 ||| s.cfg.codes.moveRight)] ∧
    (s.cfg.codes = defaultCodes →
      Completes .scrollLeft s s false [.cmd 0x18] ∧ Completes .scrollRight s s false [.cmd 0x1C])

/-- 42_display_commands.md R115: one address command, eight data frames in glyph order, each frame in its own bracket when there is a select
line; only the low three bits of the slot matter. -/
def Obligations.CreateCharSendsSlotAndGlyph : Prop :=
  (∀ w : CmdWord, CmdWord.op w = 0x11 →
    decode (.host w) = .ok (.createChar (CmdWord.operand w 0) (CmdWord.operand w 1) (CmdWord.operand w 2)
      (CmdWord.operand w 3) (CmdWord.operand w 4) (CmdWord.operand w 5) (CmdWord.operand w 6)
      (CmdWord.operand w 7) (CmdWord.operand w 8))) ∧
  ∀ (slot g0 g1 g2 g3 g4 g5 g6 g7 : Byte) (s : State),
    exec (.createChar slot g0 g1 g2 g3 g4 g5 g6 g7) s =
      .next (s.sent (g7.getLsbD 0) (frameEventList s.cfg 0xF8 (0x40 ||| ((slot &&& 0x07) <<< 3)) ++
        [g0, g1, g2, g3, g4, g5, g6, g7].flatMap (frameEventList s.cfg 0xFA))) ∧
    Completes (.createChar slot g0 g1 g2 g3 g4 g5 g6 g7) s s (g7.getLsbD 0)
      [.cmd (0x40 ||| ((slot &&& 0x07) <<< 3)), .data g0, .data g1, .data g2, .data g3,
       .data g4, .data g5, .data g6, .data g7] ∧
    ∀ slot' : Byte, slot' &&& 0x07 = slot &&& 0x07 →
      exec (.createChar slot' g0 g1 g2 g3 g4 g5 g6 g7) s = exec (.createChar slot g0 g1 g2 g3 g4 g5 g6 g7) s

/-- 42_display_commands.md R116: one data frame with the byte unchanged; no register, no wait. -/
def Obligations.WriteSendsOneDataFrame : Prop :=
  (∀ w : CmdWord, CmdWord.op w = 0x12 → decode (.host w) = .ok (.write (CmdWord.operand w 0))) ∧
  ∀ (byte : Byte) (s : State),
    exec (.write byte) s = .next (s.sent (byte.getLsbD 0) (frameEventList s.cfg 0xFA byte)) ∧
    Completes (.write byte) s s (byte.getLsbD 0) [.data byte]

/-- 42_display_commands.md R117: one command frame with the byte unchanged; no register and no wait, whatever the byte. -/
def Obligations.RawCommandSendsOneCommandFrame : Prop :=
  (∀ w : CmdWord, CmdWord.op w = 0x13 → decode (.host w) = .ok (.command (CmdWord.operand w 0))) ∧
  ∀ (byte : Byte) (s : State), Completes (.command byte) s s (byte.getLsbD 0) [.cmd byte]

/-- 30_encoding.md R61 to R69 (the meaning of a lone command byte is the model's reading, notes/assumptions/9.md), with the byte each
encodes to: each of
cmdClear, cmdReturnHome, cmdEntryModeSet, cmdDisplayControl, cmdDisplayShift, cmdFunctionSet, cmdSetCgramAddr and cmdSetDdramAddr
is one command frame with its byte, no register, no wait. -/
def Obligations.CommandBytesGoOutInOneCommandFrame : Prop :=
  (∀ (i : Instr) (b : Byte) (s : State), encode i = .wireCmd b → Completes i s s (b.getLsbD 0) [.cmd b]) ∧
  encode .cmdClear = .wireCmd 0x01 ∧ encode .cmdReturnHome = .wireCmd 0x02 ∧
  (∀ i s, encode (.cmdEntryModeSet i s) = .wireCmd (0x04 ||| (if i then 0x02 else 0) ||| (if s then 0x01 else 0))) ∧
  (∀ d c b, encode (.cmdDisplayControl d c b) =
    .wireCmd (0x08 ||| (if d then 0x04 else 0) ||| (if c then 0x02 else 0) ||| (if b then 0x01 else 0))) ∧
  (∀ r, encode (.cmdDisplayShift r) = .wireCmd (if r then 0x1C else 0x18)) ∧
  (∀ n f, encode (.cmdFunctionSet n f) = .wireCmd (0x30 ||| (if n then 0x08 else 0) ||| (if f then 0x04 else 0))) ∧
  (∀ a : BitVec 3, encode (.cmdSetCgramAddr a) = .wireCmd (0x40 ||| (a.setWidth 8 <<< 3))) ∧
  (∀ a : BitVec 7, encode (.cmdSetDdramAddr a) = .wireCmd (0x80 ||| a.setWidth 8))

/-! ### Flag-register operations -/

/-- 43_register_ops.md R130 to R136: each of the six sets or clears its bit, leaves the rest of the state alone, and sends the whole
updated register OR'd with 0x08 in one command frame, on every call. -/
def Obligations.ControlOperationsChangeOneBitAndResend : Prop :=
  (∀ w : CmdWord,
    (CmdWord.op w = 0x05 → decode (.host w) = .ok .display) ∧
    (CmdWord.op w = 0x06 → decode (.host w) = .ok .noDisplay) ∧
    (CmdWord.op w = 0x07 → decode (.host w) = .ok .cursor) ∧
    (CmdWord.op w = 0x08 → decode (.host w) = .ok .noCursor) ∧
    (CmdWord.op w = 0x09 → decode (.host w) = .ok .blink) ∧
    (CmdWord.op w = 0x0A → decode (.host w) = .ok .noBlink)) ∧
  ∀ s : State, ∀ p ∈ controlOps s.cfg.codes,
    Completes p.1 s { s with controlFlags := p.2 s.controlFlags }
      ((0x08 ||| p.2 s.controlFlags).getLsbD 0) [.cmd (0x08 ||| p.2 s.controlFlags)]

/-- 43_register_ops.md R130, R137 to R140: the same for the four operations on `entryFlags`, with opcode 0x04. -/
def Obligations.EntryOperationsChangeOneBitAndResend : Prop :=
  (∀ w : CmdWord,
    (CmdWord.op w = 0x0D → decode (.host w) = .ok .ltr) ∧
    (CmdWord.op w = 0x0E → decode (.host w) = .ok .rtl) ∧
    (CmdWord.op w = 0x0F → decode (.host w) = .ok .autoscroll) ∧
    (CmdWord.op w = 0x10 → decode (.host w) = .ok .noAutoscroll)) ∧
  ∀ s : State, ∀ p ∈ entryOps s.cfg.codes,
    Completes p.1 s { s with entryFlags := p.2 s.entryFlags }
      ((0x04 ||| p.2 s.entryFlags).getLsbD 0) [.cmd (0x04 ||| p.2 s.entryFlags)]

/-- 43_register_ops.md R141: after any sequence of the six operations the register is the fold of what each makes of it, each frame
carries 0x08 OR'd with the register as it then stands, and with the default constants the last call for a bit wins. -/
def Obligations.ControlSequencesAccumulate : Prop :=
  ∀ (s : State) (ops : List (Instr × (Byte → Byte))), (∀ p ∈ ops, p ∈ controlOps s.cfg.codes) →
    ∃ t es, execAll (ops.map Prod.fst) s = .next t ∧ t.trace = s.trace ++ es ∧
      t.controlFlags = ops.foldl (fun r p => p.2 r) s.controlFlags ∧
      (s.sck = true → frameView s.pins es =
        ((ops.scanl (fun r p => p.2 r) s.controlFlags).tail).map (fun r => Item.cmd (0x08 ||| r))) ∧
      (s.cfg.codes = defaultCodes →
        t.controlFlags.getLsbD 2 = lastSetting .display .noDisplay (s.controlFlags.getLsbD 2) (ops.map Prod.fst) ∧
        t.controlFlags.getLsbD 1 = lastSetting .cursor .noCursor (s.controlFlags.getLsbD 1) (ops.map Prod.fst) ∧
        t.controlFlags.getLsbD 0 = lastSetting .blink .noBlink (s.controlFlags.getLsbD 0) (ops.map Prod.fst))

/-- 43_register_ops.md R141, its last part: the same for `entryFlags`. -/
def Obligations.EntrySequencesAccumulate : Prop :=
  ∀ (s : State) (ops : List (Instr × (Byte → Byte))), (∀ p ∈ ops, p ∈ entryOps s.cfg.codes) →
    ∃ t es, execAll (ops.map Prod.fst) s = .next t ∧ t.trace = s.trace ++ es ∧
      t.entryFlags = ops.foldl (fun r p => p.2 r) s.entryFlags ∧
      (s.sck = true → frameView s.pins es =
        ((ops.scanl (fun r p => p.2 r) s.entryFlags).tail).map (fun r => Item.cmd (0x04 ||| r))) ∧
      (s.cfg.codes = defaultCodes →
        t.entryFlags.getLsbD 1 = lastSetting .ltr .rtl (s.entryFlags.getLsbD 1) (ops.map Prod.fst) ∧
        t.entryFlags.getLsbD 0 = lastSetting .autoscroll .noAutoscroll (s.entryFlags.getLsbD 0) (ops.map Prod.fst))

/-- 43_register_ops.md R142: a set-type operation and then its partner leave the bit clear, which restores the register exactly when the
bit was clear before; the reverse pair leaves it set; the other registers keep their values and two frames are sent. -/
def Obligations.PairedInverseCallsLeaveTheBitAsTheLastSays : Prop :=
  ∀ s : State, ∀ p ∈ flagPairs s.cfg.codes,
    (∃ t es, execAll [p.1, p.2.1] s = .next t ∧ t.trace = s.trace ++ es ∧
      t.reg p.2.2.1 = s.reg p.2.2.1 &&& ~~~p.2.2.2 ∧
      (t.reg p.2.2.1 = s.reg p.2.2.1 ↔ s.reg p.2.2.1 &&& p.2.2.2 = 0) ∧
      (∀ r, r ≠ p.2.2.1 → t.reg r = s.reg r) ∧
      (s.sck = true → ∃ x y, frameView s.pins es = [.cmd x, .cmd y])) ∧
    (∃ t es, execAll [p.2.1, p.1] s = .next t ∧ t.trace = s.trace ++ es ∧
      t.reg p.2.2.1 = s.reg p.2.2.1 ||| p.2.2.2 ∧
      (∀ r, r ≠ p.2.2.1 → t.reg r = s.reg r) ∧
      (s.sck = true → ∃ x y, frameView s.pins es = [.cmd x, .cmd y]))

/-! ### Initialization -/

/-- 44_begin.md R150, R151, R152: seven command frames, two waits, and the five registers; refused with `rows = 0`. -/
def Obligations.BeginInitializesTheBlock : Prop :=
  (∀ w : CmdWord, CmdWord.op w = 0x01 →
    decode (.host w) = .ok (.begin (CmdWord.operand w 0) (CmdWord.operand w 1) (CmdWord.operand w 2))) ∧
  ∀ (cols rows dotSize : Byte) (s : State),
    (rows = 0 → exec (.begin cols rows dotSize) s = .refused .lineCountZero) ∧
    (rows ≠ 0 →
      Completes (.begin cols rows dotSize) s
        { s with
          functionFlags := s.functionFlags ||| requestedBits s.cfg.codes rows dotSize
          controlFlags := s.cfg.codes.ctlDisplayOn
          entryFlags := s.cfg.codes.entLeft
          lineCount := rows
          currentLine := 0 }
        false
        [.cmd 0x01, .wait s.cfg.settleUs, .cmd 0x02, .wait s.cfg.settleUs,
         .cmd (s.cfg.codes.functionSet ||| (s.functionFlags ||| requestedBits s.cfg.codes rows dotSize)),
         .cmd (0x04 ||| s.cfg.codes.entLeft), .cmd 0x80, .cmd (0x08 ||| s.cfg.codes.ctlDisplayOn), .cmd 0x80])

/-- 44_begin.md R153: a second `BEGIN` cannot take back what the first requested. -/
def Obligations.SecondBeginKeepsFunctionBits : Prop :=
  ∀ (c₁ r₁ d₁ c₂ r₂ d₂ : Byte) (s : State), r₁ ≠ 0 → r₂ ≠ 0 →
    ∃ t, execAll [.begin c₁ r₁ d₁, .begin c₂ r₂ d₂] s = .next t ∧
      t.functionFlags =
        s.functionFlags ||| requestedBits s.cfg.codes r₁ d₁ ||| requestedBits s.cfg.codes r₂ d₂ ∧
      t.lineCount = r₂

/-! ### All instructions -/

/-- 60_exceptions.md R171: what is refused, by which name, and that everything else completes (a `lineCount` of 0 is refused as
30_encoding.md R77 says, notes/assumptions/13.md). -/
def Obligations.RefusalsAreExactlyTheListed : Prop :=
  ∀ (i : Instr) (s : State),
    (∀ r, exec i s = .refused r ↔
      (∃ cols dotSize, i = .begin cols 0 dotSize ∧ r = .lineCountZero) ∨
      (∃ col row, i = .setCursor col row ∧ s.lineCount = 0 ∧ r = .lineCountZero) ∨
      (∃ col row, i = .setCursor col row ∧ 1 ≤ s.lineCount.toNat ∧
        3 < min row.toNat (s.lineCount.toNat - 1) ∧ r = .rowOffsetOutOfTable)) ∧
    ((∀ r, exec i s ≠ .refused r) → ∃ t, exec i s = .next t)

/-- 60_exceptions.md R171, R173: with a line count the row table covers, every instruction a host may issue completes. -/
def Obligations.LegalInstructionsComplete : Prop :=
  ∀ (i : Instr) (s : State), i.wellFormed = true → 1 ≤ s.lineCount.toNat → s.lineCount.toNat ≤ 4 →
    ∃ t, exec i s = .next t

/-- 10_state.md R38, R27: an instruction leaves alone every register it is not listed to write, and the configuration. That `exec` leaves
alone the sequencer too is the model's choice (notes/assumptions/26.md), and so are the host's acts and the inner request, which are the
model's own fields (notes/assumptions/5.md, 8.md). -/
def Obligations.UnlistedRegistersKeepTheirValues : Prop :=
  ∀ (i : Instr) (s t : State), exec i s = .next t →
    (∀ r, r ∉ writtenRegs i → t.reg r = s.reg r) ∧ t.cfg = s.cfg ∧ t.seq = s.seq ∧ t.host = s.host ∧ t.inner = s.inner

/-- 44_begin.md R155: no register takes a byte the host supplies, but `lineCount`, which `BEGIN` loads from `rows`: a flag register changes
by its named operations, or takes what `BEGIN` gives it, and `currentLine` is left or set to 0. -/
def Obligations.OnlyBeginLoadsAHostValue : Prop :=
  ∀ (i : Instr) (s t : State), exec i s = .next t →
    (t.functionFlags = s.functionFlags ∨
      ∃ cols rows dotSize, i = .begin cols rows dotSize ∧
        t.functionFlags = s.functionFlags ||| requestedBits s.cfg.codes rows dotSize) ∧
    (t.controlFlags = s.controlFlags ∨
      (∃ p ∈ controlOps s.cfg.codes, i = p.1 ∧ t.controlFlags = p.2 s.controlFlags) ∨
      (∃ cols rows dotSize, i = .begin cols rows dotSize ∧ t.controlFlags = s.cfg.codes.ctlDisplayOn)) ∧
    (t.entryFlags = s.entryFlags ∨
      (∃ p ∈ entryOps s.cfg.codes, i = p.1 ∧ t.entryFlags = p.2 s.entryFlags) ∨
      (∃ cols rows dotSize, i = .begin cols rows dotSize ∧ t.entryFlags = s.cfg.codes.entLeft)) ∧
    (t.lineCount = s.lineCount ∨ ∃ cols dotSize, i = .begin cols t.lineCount dotSize) ∧
    (t.currentLine = s.currentLine ∨ t.currentLine = 0)

/-- 10_state.md R25: no trace and no other register depends on `currentLine`. -/
def Obligations.CurrentLineReachesNothingElse : Prop :=
  ∀ (i : Instr) (s : State) (v : Byte),
    (∀ t, exec i s = .next t →
      ∃ t', exec i { s with currentLine := v } = .next t' ∧ { t' with currentLine := 0 } = { t with currentLine := 0 }) ∧
    (∀ r, exec i s = .refused r → exec i { s with currentLine := v } = .refused r)

/-- 40_bit_serializer.md R92: no instruction drives `SDA` while the clock is high. -/
def Obligations.DataChangesOnlyWhileClockIsLow : Prop :=
  ∀ (i : Instr) (s t : State), exec i s = .next t →
    ∃ es, t.trace = s.trace ++ es ∧ dataWhileLow s.pins es = true

/-- 41_frame_transmitter.md R102, 20_memory.md R44, R46: with a select line, from idle pins, `CSN` is low at every rising clock edge, is
driven only while the clock is high and only between frames, holds the sixteen rising edges of one frame in each bracket, and falls once
for each frame. -/
def Obligations.SelectBracketsEachFrame : Prop :=
  ∀ (i : Instr) (s t : State), s.cfg.hasSelect = true → s.sck = true → s.csn = true → isLoneByte i = false →
    exec i s = .next t →
    ∃ es, t.trace = s.trace ++ es ∧ selectBrackets s.pins es = true ∧ selectBetweenFrames s.pins es = true ∧
      bracketsHoldOneFrame s.pins 0 es = true ∧ selectFalls s.pins es = framesSent i ∧
      t.sck = true ∧ t.csn = true

/-- 30_encoding.md R70: the output ports show the latches; `cs_n` is constant 1 when there is no select line. -/
def Obligations.PortsShowTheLatches : Prop :=
  ∀ s : State,
    s.portSck = s.sck ∧ s.portSdata = s.sda ∧ (s.cfg.hasSelect = true → s.portCsN = s.csn) ∧
    (s.cfg.hasSelect = false → s.portCsN = true) ∧ (s.cmdReady = true ↔ s.seq = none)

/-- 41_frame_transmitter.md R102, 10_state.md R26, 30_encoding.md R70: without a select line no instruction drives `CSN`, and the port is
constant 1. -/
def Obligations.NoSelectEventWithoutSelectLine : Prop :=
  ∀ (i : Instr) (s t : State), s.cfg.hasSelect = false → exec i s = .next t →
    ∃ es, t.trace = s.trace ++ es ∧ (∀ e ∈ es, e.drivesSelect = false) ∧ t.csn = s.csn ∧
      s.portCsN = true ∧ t.portCsN = true

/-- 70_reset_and_hazards.md R200: pin events, waits and clock edges of every instruction but the lone byte. -/
def Obligations.EventCountsAreThoseOfTheTable : Prop :=
  ∀ (i : Instr) (s t : State), isLoneByte i = false → exec i s = .next t →
    ∃ es, t.trace = s.trace ++ es ∧
      (es.filter Event.isPin).length = framesSent i * frameEvents s.cfg ∧
      (es.filter (fun e => !e.isPin)).length = waitsMade i ∧
      (s.sck = true → risingEdges s.pins es = 16 * framesSent i ∧ fallingEdges s.pins es = 16 * framesSent i)

/-- 20_memory.md R44, R46, 30_encoding.md R60: every instruction but the lone byte sends whole frames with one of the two markers, and
no wait falls inside a frame. -/
def Obligations.InstructionsSendWholeFrames : Prop :=
  ∀ (i : Instr) (s t : State), isLoneByte i = false → s.sck = true → exec i s = .next t →
    ∃ es, t.trace = s.trace ++ es ∧ wholeFrames s.pins es = true ∧ waitsBetweenFrames s.pins es = true ∧
      ∀ m p, Item.other m p ∉ frameView s.pins es

/-- 41_frame_transmitter.md R105: a wait is the settle wait of clear, home or begin, and nothing else waits. -/
def Obligations.WaitsComeOnlyFromClearAndHome : Prop :=
  ∀ (i : Instr) (s t : State) (es : List Event) (n : Nat), exec i s = .next t → t.trace = s.trace ++ es →
    .wait n ∈ es → n = s.cfg.settleUs ∧ (i = .clear ∨ i = .home ∨ ∃ c r d, i = .begin c r d)

/-- 00_scope.md R11, 20_memory.md R46: redundant drives change neither the frame view nor the pins, so wire-equivalent traces carry the
same frames. -/
def Obligations.RedundantDrivesCarryNothing : Prop :=
  ∀ (q : Pins) (a b : List Event),
    frameView q (reduce q a) = frameView q a ∧ q.afterAll (reduce q a) = q.afterAll a ∧
    (WireEquiv q a b → frameView q a = frameView q b)

/-! ### Clock edges -/

/-- 70_reset_and_hazards.md R180, R184, 60_exceptions.md R162: an edge with `rst = 1` gives every piece of state its reset value, whatever
was in progress or presented. -/
def Obligations.ResetEdgeRestoresTheResetState : Prop :=
  ∀ (s : State) (p : PortIn), p.rst = true →
    s.clockEdge p = .next
      { cfg := s.cfg, functionFlags := s.cfg.codes.fnBus8, controlFlags := 0x00, entryFlags := 0x00,
        lineCount := 1, currentLine := 0, sck := true, sda := false, csn := true,
        seq := none, trace := [], host := s.host, inner := none }

/-- 30_encoding.md R70: while `cmd_ready = 0` the command port is ignored. -/
def Obligations.BusyBlockIgnoresTheCommandPort : Prop :=
  ∀ (s : State) (p : PortIn), p.rst = false → s.cmdReady = false → s.clockEdge p = .next s.tick

/-- 30_encoding.md R70, R71, 20_memory.md R55: the accepting edge samples the word, makes the block busy and does nothing else; a refused
operation is refused at that edge. That no pin, register or event changes at this edge is the model's choice (notes/assumptions/14.md). -/
def Obligations.AcceptingEdgeSamplesTheWord : Prop :=
  ∀ (s : State) (p : PortIn) (i : Instr), p.rst = false → s.cmdReady = true → p.cmdValid = true →
    decode (.host p.cmd) = .ok i →
    (∀ r, exec i s = .refused r → s.clockEdge p = .refused r) ∧
    ((∀ r, exec i s ≠ .refused r) →
      ∃ u b, s.clockEdge p = .next u ∧ u.seq = some b ∧ b.word = p.cmd ∧ u.cmdReady = false ∧
        { u with seq := none } = s)

/-- 30_encoding.md R78: an unassigned opcode keeps the block busy for one edge and does nothing. -/
def Obligations.UnassignedOpcodeIsANoOperation : Prop :=
  ∀ (s : State) (p : PortIn), p.rst = false → s.cmdReady = true → p.cmdValid = true →
    (CmdWord.op p.cmd = 0 ∨ 0x14 ≤ (CmdWord.op p.cmd).toNat) →
    ∃ u, s.clockEdge p = .next u ∧ u.cmdReady = false ∧ u.trace = s.trace ∧ u.tick = s

/-- 10_state.md R30, R31, 20_memory.md R45, R52, 70_reset_and_hazards.md R201: the sequencer, one event at a time, ends in exactly the state
that the whole operation gives, and is busy for the edges of its events and waits. The exact numbers of edges are the model's choice:
the spec gives lower bounds (notes/assumptions/14.md, 20.md). -/
def Obligations.SequencerReachesWhatTheOperationGives : Prop :=
  ∀ (s t : State) (w : CmdWord) (i : Instr), s.cmdReady = true → decode (.host w) = .ok i → exec i s = .next t →
    ∃ u, s.accept w = .next u ∧
      BusyFor u (framesSent i * frameEvents s.cfg * max 1 s.cfg.cyclesPerStep +
        waitsMade i * max 1 (settleEdges s.cfg s.cfg.settleUs)) ∧
      u.ticks (framesSent i * frameEvents s.cfg * max 1 s.cfg.cyclesPerStep +
        waitsMade i * max 1 (settleEdges s.cfg s.cfg.settleUs)) = t

/-- 60_exceptions.md R162, 20_memory.md R52: events happen one at a time. -/
def Obligations.EventsHappenOneAtATime : Prop :=
  ∀ s : State, s.tick.trace = s.trace ∨ ∃ e, s.tick.trace = s.trace ++ [e]

/-- 60_exceptions.md R172: a busy block always comes to its next idle point, whatever state it is in. -/
def Obligations.BusyBlockAlwaysFinishes : Prop :=
  ∀ s : State, ∃ n, (s.ticks n).cmdReady = true ∧ s.ticks n = s.settled

/-- 70_reset_and_hazards.md R201: the busy times it names, at 1 MHz with a select line and one cycle a step. The spec gives them as lower
bounds; that they are exact is the model's choice (notes/assumptions/14.md, 20.md). -/
def Obligations.BusyTimesOfTheSpec : Prop :=
  ∀ (s : State) (w : CmdWord), s.cmdReady = true → s.cfg.hasSelect = true → s.cfg.cyclesPerStep = 1 →
    s.cfg.clkHz = 1000000 → s.cfg.settleUs = 2000 →
    (CmdWord.op w = 0x12 → ∃ u, s.accept w = .next u ∧ BusyFor u 52) ∧
    (CmdWord.op w = 0x02 → ∃ u, s.accept w = .next u ∧ BusyFor u (52 + 2000)) ∧
    (CmdWord.op w = 0x11 → ∃ u, s.accept w = .next u ∧ BusyFor u 468) ∧
    (CmdWord.op w = 0x01 → CmdWord.operand w 1 ≠ 0 → ∃ u, s.accept w = .next u ∧ BusyFor u (364 + 4000))

/-! ### Invariants of the step -/

/-- 10_state.md R32, kept by every step from every state. -/
def Obligations.IdlePinsStayHigh : Prop :=
  ∀ s t : State, IdlePinsInv s → step s = .next t → IdlePinsInv t

/-- 10_state.md R33, kept by every step from every state. -/
def Obligations.FlagRegistersStayInRange : Prop :=
  ∀ s t : State, FlagRangeInv s → step s = .next t → FlagRangeInv t

/-- 10_state.md R34, kept by every step from every state. -/
def Obligations.LineCountStaysPositive : Prop :=
  ∀ s t : State, LineCountInv s → step s = .next t → LineCountInv t

/-- 10_state.md R27, 70_reset_and_hazards.md R180: no step changes the configuration. -/
def Obligations.ConfigurationNeverChanges : Prop :=
  ∀ s t : State, step s = .next t → t.cfg = s.cfg

/-- 10_state.md R26: a latch changes only by a drive, which the trace records; a reset starts the trace anew
(notes/assumptions/15.md). -/
def Obligations.PinsFollowTheTrace : Prop :=
  ∀ s t : State, PinsFollowTraceInv s → step s = .next t → PinsFollowTraceInv t

/-- 20_memory.md R44, R46, 30_encoding.md R60: at every idle point the trace since reset is whole frames with one of the two
markers, and no wait is inside a frame. -/
def Obligations.TraceStaysWholeFrames : Prop :=
  ∀ s t : State, WholeFramesInv s → step s = .next t → WholeFramesInv t

/-- The invariants hold right after reset, for every configuration and every host; the range of the flag registers
with the default constants. -/
def Obligations.ResetMeetsTheInvariants : Prop :=
  (∀ (c : Config) (h : List HostAct),
    IdlePinsInv (State.resetWith c h) ∧ LineCountInv (State.resetWith c h) ∧
    PinsFollowTraceInv (State.resetWith c h) ∧
    (c.codes = defaultCodes → FlagRangeInv (State.resetWith c h)) ∧
    WholeFramesInv (State.resetWith c h)) ∧
  IdlePinsInv State.reset ∧ FlagRangeInv State.reset ∧ WholeFramesInv State.reset

/-- 10_state.md R35: the values after reset; the host's list and the inner request, both empty, are the model's own fields
(notes/assumptions/5.md, 8.md). -/
def Obligations.ResetLeavesTheSpecValues : Prop :=
  State.reset.functionFlags = 0x10 ∧ State.reset.controlFlags = 0x00 ∧ State.reset.entryFlags = 0x00 ∧
  State.reset.lineCount = 1 ∧ State.reset.currentLine = 0 ∧ State.reset.sck = true ∧ State.reset.csn = true ∧
  State.reset.sda = false ∧ State.reset.seq = none ∧ State.reset.cmdReady = true ∧ State.reset.trace = [] ∧
  State.reset.host = [] ∧ State.reset.inner = none

/-- 30_encoding.md R70, 60_exceptions.md R170: an idle block accepts nothing while `cmd_valid = 0`, and an edge at which it accepts nothing
leaves it exactly as it is, nothing being lost in idleness. -/
def Obligations.IdleBlockStaysAsItIsWithoutAValidWord : Prop :=
  (∀ (s : State) (p : PortIn), p.rst = false → s.cmdReady = true → p.cmdValid = false → s.clockEdge p = .next s) ∧
  (∀ s : State, s.cmdReady = true → s.tick = s)
end

