-- ==== Sys2Proof/Laws/Decode.lean ====
section
/-! SUPPORT. The fields of assembled words, and the masks of the opcode table's rows. -/

namespace Sys2Proof

/-! ### Command words -/

theorem extract_placeByte_same (b : Byte) (k : Nat) (h : k + 8 ≤ 80) : (placeByte b k).extractLsb' k 8 = b := by
  ext i hi
  simp [placeByte, show k + i < 80 by omega, BitVec.getLsbD_eq_getElem hi]

theorem extract_placeByte_other (b : Byte) (j k : Nat) (h : j + 8 ≤ k ∨ k + 8 ≤ j) :
    (placeByte b k).extractLsb' j 8 = 0 := by
  ext i hi
  simp [placeByte]
  intros
  apply BitVec.getLsbD_of_ge
  omega

/-- The opcode of an assembled command word (30_encoding.md R71). -/
@[simp] theorem op_hostWord (op p0 p1 p2 p3 p4 p5 p6 p7 p8 : Byte) :
    CmdWord.op (hostWord op p0 p1 p2 p3 p4 p5 p6 p7 p8) = op := by
  simp [CmdWord.op, hostWord, BitVec.extractLsb'_or, extract_placeByte_same, extract_placeByte_other]

/-- The operands of an assembled command word (30_encoding.md R71). -/
@[simp] theorem operand_hostWord (op p0 p1 p2 p3 p4 p5 p6 p7 p8 : Byte) :
    (CmdWord.operand (hostWord op p0 p1 p2 p3 p4 p5 p6 p7 p8) 0 = p0 ∧
     CmdWord.operand (hostWord op p0 p1 p2 p3 p4 p5 p6 p7 p8) 1 = p1 ∧
     CmdWord.operand (hostWord op p0 p1 p2 p3 p4 p5 p6 p7 p8) 2 = p2 ∧
     CmdWord.operand (hostWord op p0 p1 p2 p3 p4 p5 p6 p7 p8) 3 = p3 ∧
     CmdWord.operand (hostWord op p0 p1 p2 p3 p4 p5 p6 p7 p8) 4 = p4) ∧
    (CmdWord.operand (hostWord op p0 p1 p2 p3 p4 p5 p6 p7 p8) 5 = p5 ∧
     CmdWord.operand (hostWord op p0 p1 p2 p3 p4 p5 p6 p7 p8) 6 = p6 ∧
     CmdWord.operand (hostWord op p0 p1 p2 p3 p4 p5 p6 p7 p8) 7 = p7 ∧
     CmdWord.operand (hostWord op p0 p1 p2 p3 p4 p5 p6 p7 p8) 8 = p8) := by
  simp [CmdWord.operand, hostWord, BitVec.extractLsb'_or, extract_placeByte_same, extract_placeByte_other]

/-- The mask of a host row keeps the opcode byte. -/
theorem hostMask_and (w : CmdWord) :
    BitVec.ofNat 80 0xFF000000000000000000 &&& w = placeByte (CmdWord.op w) 72 := by
  have hm : ∀ i, i < 80 → (BitVec.ofNat 80 0xFF000000000000000000).getLsbD i = decide (72 ≤ i) := by decide
  apply BitVec.eq_of_getLsbD_eq
  intro i hi
  rw [BitVec.getLsbD_and, hm i hi]
  by_cases h : i < 72
  · simp [placeByte, h]
  · simp [placeByte, CmdWord.op, h, hi, show i - 72 < 8 by omega, show 72 + (i - 72) = i by omega,
      show 72 ≤ i by omega]

/-! ### Frames -/

@[simp] theorem marker_frameWord (m p : Byte) : FrameWord.marker (frameWord m p) = m := by
  ext i hi
  simp [FrameWord.marker, frameWord, BitVec.getLsbD_eq_getElem hi, show 8 + i < 16 by omega]

@[simp] theorem payload_frameWord (m p : Byte) : FrameWord.payload (frameWord m p) = p := by
  ext i hi
  simp [FrameWord.payload, frameWord, show i < 8 by omega, show i < 16 by omega]

/-- The mask of a frame row keeps the marker. -/
theorem frameMask_and (w : FrameWord) :
    BitVec.ofNat 16 0xFF00 &&& w = (FrameWord.marker w).setWidth 16 <<< 8 := by
  have hm : ∀ i, i < 16 → (BitVec.ofNat 16 0xFF00).getLsbD i = decide (8 ≤ i) := by decide
  apply BitVec.eq_of_getLsbD_eq
  intro i hi
  rw [BitVec.getLsbD_and, hm i hi]
  by_cases h : i < 8
  · simp [h]
  · simp [FrameWord.marker, h, hi, show i - 8 < 8 by omega, show 8 + (i - 8) = i by omega, show 8 ≤ i by omega]

end Sys2Proof
end

