-- ==== Sys2Proof/Laws/State.lean ====
section
/-! SUPPORT. The small lemmas of the state's updates: one per field, so that no later proof unfolds a record update. -/

namespace Sys2Proof.Machine

/-! ### Register writes -/

@[simp] theorem State.writeReg_functionFlags_functionFlags (s : State) (v : Byte) : (s.writeReg .functionFlags v).functionFlags = v := rfl
@[simp] theorem State.writeReg_functionFlags_controlFlags (s : State) (v : Byte) : (s.writeReg .functionFlags v).controlFlags = s.controlFlags := rfl
@[simp] theorem State.writeReg_functionFlags_entryFlags (s : State) (v : Byte) : (s.writeReg .functionFlags v).entryFlags = s.entryFlags := rfl
@[simp] theorem State.writeReg_functionFlags_lineCount (s : State) (v : Byte) : (s.writeReg .functionFlags v).lineCount = s.lineCount := rfl
@[simp] theorem State.writeReg_functionFlags_currentLine (s : State) (v : Byte) : (s.writeReg .functionFlags v).currentLine = s.currentLine := rfl

@[simp] theorem State.writeReg_controlFlags_functionFlags (s : State) (v : Byte) : (s.writeReg .controlFlags v).functionFlags = s.functionFlags := rfl
@[simp] theorem State.writeReg_controlFlags_controlFlags (s : State) (v : Byte) : (s.writeReg .controlFlags v).controlFlags = v := rfl
@[simp] theorem State.writeReg_controlFlags_entryFlags (s : State) (v : Byte) : (s.writeReg .controlFlags v).entryFlags = s.entryFlags := rfl
@[simp] theorem State.writeReg_controlFlags_lineCount (s : State) (v : Byte) : (s.writeReg .controlFlags v).lineCount = s.lineCount := rfl
@[simp] theorem State.writeReg_controlFlags_currentLine (s : State) (v : Byte) : (s.writeReg .controlFlags v).currentLine = s.currentLine := rfl

@[simp] theorem State.writeReg_entryFlags_functionFlags (s : State) (v : Byte) : (s.writeReg .entryFlags v).functionFlags = s.functionFlags := rfl
@[simp] theorem State.writeReg_entryFlags_controlFlags (s : State) (v : Byte) : (s.writeReg .entryFlags v).controlFlags = s.controlFlags := rfl
@[simp] theorem State.writeReg_entryFlags_entryFlags (s : State) (v : Byte) : (s.writeReg .entryFlags v).entryFlags = v := rfl
@[simp] theorem State.writeReg_entryFlags_lineCount (s : State) (v : Byte) : (s.writeReg .entryFlags v).lineCount = s.lineCount := rfl
@[simp] theorem State.writeReg_entryFlags_currentLine (s : State) (v : Byte) : (s.writeReg .entryFlags v).currentLine = s.currentLine := rfl

@[simp] theorem State.writeReg_lineCount_functionFlags (s : State) (v : Byte) : (s.writeReg .lineCount v).functionFlags = s.functionFlags := rfl
@[simp] theorem State.writeReg_lineCount_controlFlags (s : State) (v : Byte) : (s.writeReg .lineCount v).controlFlags = s.controlFlags := rfl
@[simp] theorem State.writeReg_lineCount_entryFlags (s : State) (v : Byte) : (s.writeReg .lineCount v).entryFlags = s.entryFlags := rfl
@[simp] theorem State.writeReg_lineCount_lineCount (s : State) (v : Byte) : (s.writeReg .lineCount v).lineCount = v := rfl
@[simp] theorem State.writeReg_lineCount_currentLine (s : State) (v : Byte) : (s.writeReg .lineCount v).currentLine = s.currentLine := rfl

@[simp] theorem State.writeReg_currentLine_functionFlags (s : State) (v : Byte) : (s.writeReg .currentLine v).functionFlags = s.functionFlags := rfl
@[simp] theorem State.writeReg_currentLine_controlFlags (s : State) (v : Byte) : (s.writeReg .currentLine v).controlFlags = s.controlFlags := rfl
@[simp] theorem State.writeReg_currentLine_entryFlags (s : State) (v : Byte) : (s.writeReg .currentLine v).entryFlags = s.entryFlags := rfl
@[simp] theorem State.writeReg_currentLine_lineCount (s : State) (v : Byte) : (s.writeReg .currentLine v).lineCount = s.lineCount := rfl
@[simp] theorem State.writeReg_currentLine_currentLine (s : State) (v : Byte) : (s.writeReg .currentLine v).currentLine = v := rfl

@[simp] theorem State.writeReg_sck (s : State) (r : Reg) (v : Byte) : (s.writeReg r v).sck = s.sck := by
  cases r <;> rfl

@[simp] theorem State.writeReg_sda (s : State) (r : Reg) (v : Byte) : (s.writeReg r v).sda = s.sda := by
  cases r <;> rfl

@[simp] theorem State.writeReg_csn (s : State) (r : Reg) (v : Byte) : (s.writeReg r v).csn = s.csn := by
  cases r <;> rfl

@[simp] theorem State.writeReg_cfg (s : State) (r : Reg) (v : Byte) : (s.writeReg r v).cfg = s.cfg := by
  cases r <;> rfl

@[simp] theorem State.writeReg_seq (s : State) (r : Reg) (v : Byte) : (s.writeReg r v).seq = s.seq := by
  cases r <;> rfl

@[simp] theorem State.writeReg_trace (s : State) (r : Reg) (v : Byte) : (s.writeReg r v).trace = s.trace := by
  cases r <;> rfl

@[simp] theorem State.writeReg_host (s : State) (r : Reg) (v : Byte) : (s.writeReg r v).host = s.host := by
  cases r <;> rfl

@[simp] theorem State.writeReg_inner (s : State) (r : Reg) (v : Byte) : (s.writeReg r v).inner = s.inner := by
  cases r <;> rfl

/-! ### Pins -/

@[simp] theorem State.setPin_sck_sck (s : State) (l : Level) : (s.setPin .sck l).sck = l := rfl
@[simp] theorem State.setPin_sck_sda (s : State) (l : Level) : (s.setPin .sck l).sda = s.sda := rfl
@[simp] theorem State.setPin_sck_csn (s : State) (l : Level) : (s.setPin .sck l).csn = s.csn := rfl

@[simp] theorem State.setPin_sda_sck (s : State) (l : Level) : (s.setPin .sda l).sck = s.sck := rfl
@[simp] theorem State.setPin_sda_sda (s : State) (l : Level) : (s.setPin .sda l).sda = l := rfl
@[simp] theorem State.setPin_sda_csn (s : State) (l : Level) : (s.setPin .sda l).csn = s.csn := rfl

@[simp] theorem State.setPin_csn_sck (s : State) (l : Level) : (s.setPin .csn l).sck = s.sck := rfl
@[simp] theorem State.setPin_csn_sda (s : State) (l : Level) : (s.setPin .csn l).sda = s.sda := rfl
@[simp] theorem State.setPin_csn_csn (s : State) (l : Level) : (s.setPin .csn l).csn = l := rfl

@[simp] theorem State.setPin_functionFlags (s : State) (p : Pin) (l : Level) : (s.setPin p l).functionFlags = s.functionFlags := by
  cases p <;> rfl

@[simp] theorem State.setPin_controlFlags (s : State) (p : Pin) (l : Level) : (s.setPin p l).controlFlags = s.controlFlags := by
  cases p <;> rfl

@[simp] theorem State.setPin_entryFlags (s : State) (p : Pin) (l : Level) : (s.setPin p l).entryFlags = s.entryFlags := by
  cases p <;> rfl

@[simp] theorem State.setPin_lineCount (s : State) (p : Pin) (l : Level) : (s.setPin p l).lineCount = s.lineCount := by
  cases p <;> rfl

@[simp] theorem State.setPin_currentLine (s : State) (p : Pin) (l : Level) : (s.setPin p l).currentLine = s.currentLine := by
  cases p <;> rfl

@[simp] theorem State.setPin_cfg (s : State) (p : Pin) (l : Level) : (s.setPin p l).cfg = s.cfg := by
  cases p <;> rfl

@[simp] theorem State.setPin_seq (s : State) (p : Pin) (l : Level) : (s.setPin p l).seq = s.seq := by
  cases p <;> rfl

@[simp] theorem State.setPin_trace (s : State) (p : Pin) (l : Level) : (s.setPin p l).trace = s.trace := by
  cases p <;> rfl

@[simp] theorem State.setPin_host (s : State) (p : Pin) (l : Level) : (s.setPin p l).host = s.host := by
  cases p <;> rfl

@[simp] theorem State.setPin_inner (s : State) (p : Pin) (l : Level) : (s.setPin p l).inner = s.inner := by
  cases p <;> rfl

/-! ### Events -/

@[simp] theorem State.emit_trace (s : State) (e : Event) : (s.emit e).trace = s.trace ++ [e] := by
  cases e <;> rfl

@[simp] theorem State.emit_functionFlags (s : State) (e : Event) : (s.emit e).functionFlags = s.functionFlags := by
  cases e <;> simp [State.emit]

@[simp] theorem State.emit_controlFlags (s : State) (e : Event) : (s.emit e).controlFlags = s.controlFlags := by
  cases e <;> simp [State.emit]

@[simp] theorem State.emit_entryFlags (s : State) (e : Event) : (s.emit e).entryFlags = s.entryFlags := by
  cases e <;> simp [State.emit]

@[simp] theorem State.emit_lineCount (s : State) (e : Event) : (s.emit e).lineCount = s.lineCount := by
  cases e <;> simp [State.emit]

@[simp] theorem State.emit_currentLine (s : State) (e : Event) : (s.emit e).currentLine = s.currentLine := by
  cases e <;> simp [State.emit]

@[simp] theorem State.emit_cfg (s : State) (e : Event) : (s.emit e).cfg = s.cfg := by
  cases e <;> simp [State.emit]

@[simp] theorem State.emit_seq (s : State) (e : Event) : (s.emit e).seq = s.seq := by
  cases e <;> simp [State.emit]

@[simp] theorem State.emit_host (s : State) (e : Event) : (s.emit e).host = s.host := by
  cases e <;> simp [State.emit]

@[simp] theorem State.emit_inner (s : State) (e : Event) : (s.emit e).inner = s.inner := by
  cases e <;> simp [State.emit]

@[simp] theorem State.emit_pin_sck (s : State) (p : Pin) (l : Level) : (s.emit (.pin p l)).sck = (s.setPin p l).sck := rfl
@[simp] theorem State.emit_wait_sck (s : State) (n : Nat) : (s.emit (.wait n)).sck = s.sck := rfl
@[simp] theorem State.emit_pin_sda (s : State) (p : Pin) (l : Level) : (s.emit (.pin p l)).sda = (s.setPin p l).sda := rfl
@[simp] theorem State.emit_wait_sda (s : State) (n : Nat) : (s.emit (.wait n)).sda = s.sda := rfl
@[simp] theorem State.emit_pin_csn (s : State) (p : Pin) (l : Level) : (s.emit (.pin p l)).csn = (s.setPin p l).csn := rfl
@[simp] theorem State.emit_wait_csn (s : State) (n : Nat) : (s.emit (.wait n)).csn = s.csn := rfl

/-! ### Statements -/

@[simp] theorem State.micro_write (s : State) (r : Reg) (v : Byte) : s.micro (.write r v) = s.writeReg r v := rfl

@[simp] theorem State.micro_emit (s : State) (e : Event) : s.micro (.emit e) = s.emit e := rfl

@[simp] theorem State.micro_cfg (s : State) (m : Micro) : (s.micro m).cfg = s.cfg := by
  cases m <;> simp

@[simp] theorem State.micro_seq (s : State) (m : Micro) : (s.micro m).seq = s.seq := by
  cases m <;> simp

@[simp] theorem State.micro_host (s : State) (m : Micro) : (s.micro m).host = s.host := by
  cases m <;> simp

@[simp] theorem State.micro_inner (s : State) (m : Micro) : (s.micro m).inner = s.inner := by
  cases m <;> simp

/-! ### Reset -/

@[simp] theorem State.resetBlock_cfg (s : State) : s.resetBlock.cfg = s.cfg := rfl
@[simp] theorem State.resetBlock_host (s : State) : s.resetBlock.host = s.host := rfl
@[simp] theorem State.resetBlock_inner (s : State) : s.resetBlock.inner = none := rfl
@[simp] theorem State.resetBlock_seq (s : State) : s.resetBlock.seq = none := rfl
@[simp] theorem State.resetBlock_trace (s : State) : s.resetBlock.trace = [] := rfl

end Sys2Proof.Machine
end

