-- ==== Sys2Proof/Laws/Ops.lean ====
section
/-! SUPPORT. What the shared operations do: running statements, the primitives, and a whole operation. -/

namespace Sys2Proof.Machine

/-! ### Running statements -/

@[simp] theorem State.perform_nil (s : State) : s.perform [] = s := rfl

@[simp] theorem State.perform_cons (s : State) (m : Micro) (l : List Micro) :
    s.perform (m :: l) = (s.micro m).perform l := rfl

theorem State.perform_append (s : State) (a b : List Micro) : s.perform (a ++ b) = (s.perform a).perform b := by
  induction a generalizing s with
  | nil => rfl
  | cons m a ih => exact ih _

@[simp] theorem eventsOf_append (a b : List Micro) : eventsOf (a ++ b) = eventsOf a ++ eventsOf b := by
  induction a with
  | nil => rfl
  | cons m a ih => cases m <;> simp [eventsOf, ih]

@[simp] theorem State.perform_trace (s : State) (l : List Micro) :
    (s.perform l).trace = s.trace ++ eventsOf l := by
  induction l generalizing s with
  | nil => simp [eventsOf]
  | cons m l ih => cases m <;> simp [ih, eventsOf]

@[simp] theorem State.perform_cfg (s : State) (l : List Micro) : (s.perform l).cfg = s.cfg := by
  induction l generalizing s with
  | nil => rfl
  | cons m l ih => simp [ih]

@[simp] theorem State.perform_seq (s : State) (l : List Micro) : (s.perform l).seq = s.seq := by
  induction l generalizing s with
  | nil => rfl
  | cons m l ih => simp [ih]

@[simp] theorem State.perform_host (s : State) (l : List Micro) : (s.perform l).host = s.host := by
  induction l generalizing s with
  | nil => rfl
  | cons m l ih => simp [ih]

@[simp] theorem State.perform_inner (s : State) (l : List Micro) : (s.perform l).inner = s.inner := by
  induction l generalizing s with
  | nil => rfl
  | cons m l ih => simp [ih]

/-- Statements do not read the sequencer, so a change of it commutes with them. -/
theorem State.perform_with_seq (s : State) (q : Option Busy) (l : List Micro) :
    { s with seq := q }.perform l = { s.perform l with seq := q } := by
  induction l generalizing s with
  | nil => rfl
  | cons m l ih =>
    have h : { s with seq := q }.micro m = { s.micro m with seq := q } := by
      cases m with
      | write r v => cases r <;> rfl
      | emit e =>
        cases e with
        | wait n => rfl
        | pin p l => cases p <;> rfl
    rw [State.perform_cons, h, ih, State.perform_cons]

/-- Statements do not read the host's coming acts, so a change of them commutes with them. -/
theorem State.perform_with_host (s : State) (a : List HostAct) (l : List Micro) :
    { s with host := a }.perform l = { s.perform l with host := a } := by
  induction l generalizing s with
  | nil => rfl
  | cons m l ih =>
    have h : { s with host := a }.micro m = { s.micro m with host := a } := by
      cases m with
      | write r v => cases r <;> rfl
      | emit e =>
        cases e with
        | wait n => rfl
        | pin p l => cases p <;> rfl
    rw [State.perform_cons, h, ih, State.perform_cons]

/-- Statements do not read the request at an inner component, so a change of them commutes with them. -/
theorem State.perform_with_inner (s : State) (a : Option Inner) (l : List Micro) :
    { s with inner := a }.perform l = { s.perform l with inner := a } := by
  induction l generalizing s with
  | nil => rfl
  | cons m l ih =>
    have h : { s with inner := a }.micro m = { s.micro m with inner := a } := by
      cases m with
      | write r v => cases r <;> rfl
      | emit e =>
        cases e with
        | wait n => rfl
        | pin p l => cases p <;> rfl
    rw [State.perform_cons, h, ih, State.perform_cons]

/-! ### A whole operation -/

/-- An operation answers a next state exactly when it has a program, and the state is the program run. -/
theorem runProgram_next_iff {p : Except Refusal (List Micro)} {s t : State} :
    runProgram p s = .next t ↔ ∃ l, p = .ok l ∧ t = s.perform l := by
  cases p <;> simp [runProgram, eq_comm]

/-- An operation is refused exactly when it has no program. -/
theorem runProgram_refused_iff {p : Except Refusal (List Micro)} {s : State} {r : Refusal} :
    runProgram p s = .refused r ↔ p = .error r := by
  cases p <;> simp [runProgram]

/-- The meaning of an instruction is its program, run whole. -/
theorem exec_eq_runProgram (i : Instr) (s : State) : exec i s = runProgram (program i s) s := by
  cases i <;> rfl

/-- An instruction answers a next state exactly when it has a program, and the state is the program run. -/
theorem exec_next_iff {i : Instr} {s t : State} :
    exec i s = .next t ↔ ∃ l, program i s = .ok l ∧ t = s.perform l := by
  rw [exec_eq_runProgram, runProgram_next_iff]

/-! ### The primitives -/

/-- `SEND(b)` from any state (40_bit_serializer.md R90). -/
theorem perform_sendMicros (s : State) (b : Byte) :
    s.perform (sendMicros b) =
      { s with sck := true, sda := b.getLsbD 0, trace := s.trace ++ eventsOf (sendMicros b) } := by
  simp [sendMicros, bitMicros, drive, State.emit, State.setPin, eventsOf]

/-- The events of `SEND(b)` are those 40_bit_serializer.md R90 lists. -/
theorem eventsOf_sendMicros (b : Byte) : eventsOf (sendMicros b) = sendEvents b := rfl

/-- The events of a frame are those 41_frame_transmitter.md R100 lists. -/
theorem eventsOf_frameMicros (c : Config) (m p : Byte) :
    eventsOf (frameMicros c m p) = frameEventList c m p := by
  cases h : c.hasSelect <;>
    simp [frameMicros, frameEventList, selectMicros, h, drive, eventsOf, eventsOf_sendMicros]

/-- A frame from any state (41_frame_transmitter.md R100). -/
theorem perform_frameMicros (s : State) (m p : Byte) :
    s.perform (frameMicros s.cfg m p) = s.sent (p.getLsbD 0) (eventsOf (frameMicros s.cfg m p)) := by
  cases h : s.cfg.hasSelect <;>
    simp [frameMicros, selectMicros, h, State.perform_append, perform_sendMicros, drive, State.emit,
      State.setPin, State.sent, eventsOf]

/-- A frame has 52 events with a select line and 50 without (41_frame_transmitter.md R100). -/
theorem length_frameMicros (c : Config) (m p : Byte) :
    (eventsOf (frameMicros c m p)).length = frameEvents c := by
  cases h : c.hasSelect <;>
    simp [frameMicros, selectMicros, h, sendMicros, bitMicros, drive, eventsOf, frameEvents]

end Sys2Proof.Machine
end

