-- ==== Sys2Proof/Laws/PerInstr.lean ====
section
/-! SUPPORT. Per-instruction laws. Family InRow: the encoding of an instruction lies in its row of
spec/opcode_table.json. -/

/-- The encoded instruction, under the mask of its row, is the match of its row. -/
def Sys2Proof.Laws.InRow.Statement (i : Sys2Proof.Instr) : Prop :=
  i.row.holds (Sys2Proof.encode i) = true

namespace Sys2Proof.Laws.InRow

/-- A host row holds its words: the mask keeps the opcode byte alone. -/
theorem host_row (v : Nat) (op p0 p1 p2 p3 p4 p5 p6 p7 p8 : Byte) (h : placeByte op 72 = BitVec.ofNat 80 v) :
    (OpcodeRow.mk .host v 0xFF000000000000000000).holds (.host (hostWord op p0 p1 p2 p3 p4 p5 p6 p7 p8)) = true := by
  simp only [OpcodeRow.holds]
  rw [hostMask_and, op_hostWord, h]
  simp

/-- A frame row holds its words: the mask keeps the marker alone. -/
theorem frame_row (v : Nat) (m p : Byte) (h : m.setWidth 16 <<< 8 = BitVec.ofNat 16 v) :
    (OpcodeRow.mk .wireFrame v 0xFF00).holds (.frame (frameWord m p)) = true := by
  simp only [OpcodeRow.holds]
  rw [frameMask_and, marker_frameWord, h]
  simp

theorem begin (cols rows dotSize : Byte) : Statement (.begin cols rows dotSize) := host_row _ _ _ _ _ _ _ _ _ _ _ (by decide)

theorem clear : Statement .clear := host_row _ _ _ _ _ _ _ _ _ _ _ (by decide)

theorem home : Statement .home := host_row _ _ _ _ _ _ _ _ _ _ _ (by decide)

theorem setCursor (col row : Byte) : Statement (.setCursor col row) := host_row _ _ _ _ _ _ _ _ _ _ _ (by decide)

theorem display : Statement .display := host_row _ _ _ _ _ _ _ _ _ _ _ (by decide)

theorem noDisplay : Statement .noDisplay := host_row _ _ _ _ _ _ _ _ _ _ _ (by decide)

theorem cursor : Statement .cursor := host_row _ _ _ _ _ _ _ _ _ _ _ (by decide)

theorem noCursor : Statement .noCursor := host_row _ _ _ _ _ _ _ _ _ _ _ (by decide)

theorem blink : Statement .blink := host_row _ _ _ _ _ _ _ _ _ _ _ (by decide)

theorem noBlink : Statement .noBlink := host_row _ _ _ _ _ _ _ _ _ _ _ (by decide)

theorem scrollLeft : Statement .scrollLeft := host_row _ _ _ _ _ _ _ _ _ _ _ (by decide)

theorem scrollRight : Statement .scrollRight := host_row _ _ _ _ _ _ _ _ _ _ _ (by decide)

theorem ltr : Statement .ltr := host_row _ _ _ _ _ _ _ _ _ _ _ (by decide)

theorem rtl : Statement .rtl := host_row _ _ _ _ _ _ _ _ _ _ _ (by decide)

theorem autoscroll : Statement .autoscroll := host_row _ _ _ _ _ _ _ _ _ _ _ (by decide)

theorem noAutoscroll : Statement .noAutoscroll := host_row _ _ _ _ _ _ _ _ _ _ _ (by decide)

theorem createChar (slot g0 g1 g2 g3 g4 g5 g6 g7 : Byte) : Statement (.createChar slot g0 g1 g2 g3 g4 g5 g6 g7) := host_row _ _ _ _ _ _ _ _ _ _ _ (by decide)

theorem write (byte : Byte) : Statement (.write byte) := host_row _ _ _ _ _ _ _ _ _ _ _ (by decide)

theorem command (byte : Byte) : Statement (.command byte) := host_row _ _ _ _ _ _ _ _ _ _ _ (by decide)

theorem sendCommand (p : Byte) : Statement (.sendCommand p) := frame_row _ _ _ (by decide)

theorem sendData (p : Byte) : Statement (.sendData p) := frame_row _ _ _ (by decide)

theorem send (b : Byte) : Statement (.send b) := by simp [Statement, Instr.row, OpcodeRow.holds, encode]

theorem cmdClear : Statement .cmdClear := by unfold Statement; decide

theorem cmdReturnHome : Statement .cmdReturnHome := by unfold Statement; decide

theorem cmdEntryModeSet (i s : Bool) : Statement (.cmdEntryModeSet i s) := by unfold Statement; revert i s; decide

theorem cmdDisplayControl (d c b : Bool) : Statement (.cmdDisplayControl d c b) := by unfold Statement; revert d c b; decide

theorem cmdDisplayShift (r : Bool) : Statement (.cmdDisplayShift r) := by unfold Statement; revert r; decide

theorem cmdFunctionSet (n f : Bool) : Statement (.cmdFunctionSet n f) := by unfold Statement; revert n f; decide

theorem cmdSetCgramAddr (slot : BitVec 3) : Statement (.cmdSetCgramAddr slot) := by unfold Statement; revert slot; decide

theorem cmdSetDdramAddr (a : BitVec 7) : Statement (.cmdSetDdramAddr a) := by unfold Statement; revert a; decide

end Sys2Proof.Laws.InRow
end

