-- ==== Sys2Proof/Laws/Wire.lean ====
section
/-! SUPPORT. Reading traces: the walk of the frame view over appended traces, and what a frame looks like in it. -/

namespace Sys2Proof.Machine

/-! ### Pins -/

@[simp] theorem Pins.afterAll_nil (q : Pins) : q.afterAll [] = q := rfl

@[simp] theorem Pins.afterAll_cons (q : Pins) (e : Event) (es : List Event) :
    q.afterAll (e :: es) = (q.after e).afterAll es := rfl

theorem Pins.afterAll_append (q : Pins) (a b : List Event) : q.afterAll (a ++ b) = (q.afterAll a).afterAll b := by
  simp [Pins.afterAll, List.foldl_append]

theorem State.emit_pins (s : State) (e : Event) : (s.emit e).pins = s.pins.after e := by
  cases e with
  | wait n => rfl
  | pin p l => cases p <;> rfl

theorem State.writeReg_pins (s : State) (r : Reg) (v : Byte) : (s.writeReg r v).pins = s.pins := by
  cases r <;> rfl

/-- The pins after statements are the pins after their events. -/
theorem State.perform_pins (s : State) (l : List Micro) :
    (s.perform l).pins = s.pins.afterAll (eventsOf l) := by
  induction l generalizing s with
  | nil => rfl
  | cons m l ih =>
    cases m with
    | write r v => simp [ih, eventsOf, State.writeReg_pins]
    | emit e => simp [ih, eventsOf, State.emit_pins]

/-! ### The walk -/

@[simp] theorem View.run_nil (v : View) : v.run [] = v := rfl

@[simp] theorem View.run_cons (v : View) (e : Event) (es : List Event) :
    v.run (e :: es) = (v.event e).run es := rfl

theorem View.run_append (v : View) (a b : List Event) : v.run (a ++ b) = (v.run a).run b := by
  simp [View.run, List.foldl_append]

/-- The eight bits of a byte, most significant first, read back as the byte (20_memory.md R42). -/
@[simp] theorem byteOfBits_bits (b : Byte) :
    byteOfBits [b[7], b[6], b[5], b[4], b[3], b[2], b[1], b[0]] = b := by
  revert b
  decide +kernel

/-- The walk over `SEND(b)` from a high clock, at the start of a byte: eight bits more (40_bit_serializer.md R91). -/
theorem View.run_send_first (q : Pins) (items : List Item) (b : Byte) (h : q.sck = true) :
    (View.mk q [] items).run (eventsOf (sendMicros b)) =
      ⟨{ q with sda := b.getLsbD 0 },
       [b.getLsbD 7, b.getLsbD 6, b.getLsbD 5, b.getLsbD 4, b.getLsbD 3, b.getLsbD 2, b.getLsbD 1, b.getLsbD 0], items⟩ := by
  obtain ⟨k, d, n⟩ := q
  subst h
  simp [sendMicros, bitMicros, drive, eventsOf, View.event, View.sample, Pins.rises, Pins.after, Pins.set]

/-- The walk over `SEND(b)` from a high clock, with eight bits `m7 … m0` of the frame already there: the frame is finished. -/
theorem View.run_send_second (q : Pins) (items : List Item) (m7 m6 m5 m4 m3 m2 m1 m0 : Level) (b : Byte)
    (h : q.sck = true) :
    (View.mk q [m7, m6, m5, m4, m3, m2, m1, m0] items).run (eventsOf (sendMicros b)) =
      ⟨{ q with sda := b.getLsbD 0 }, [],
       items ++ [frameItem (byteOfBits [m7, m6, m5, m4, m3, m2, m1, m0]) b]⟩ := by
  obtain ⟨k, d, n⟩ := q
  subst h
  simp [sendMicros, bitMicros, drive, eventsOf, View.event, View.sample, Pins.rises, Pins.after, Pins.set]

/-- The walk over a frame from a high clock at a frame boundary: one item, its marker's kind, and a frame boundary again
(41_frame_transmitter.md R103). -/
theorem View.run_frame (c : Config) (q : Pins) (items : List Item) (m p : Byte) (h : q.sck = true) :
    (View.mk q [] items).run (eventsOf (frameMicros c m p)) =
      ⟨⟨true, p.getLsbD 0, if c.hasSelect then true else q.csn⟩, [], items ++ [frameItem m p]⟩ := by
  obtain ⟨k, d, n⟩ := q
  subst h
  cases hs : c.hasSelect <;>
    simp [frameMicros, selectMicros, hs, View.run_append, View.run_send_first, View.run_send_second,
      drive, eventsOf, View.event, Pins.rises, Pins.after, Pins.set]

@[simp] theorem frameItem_command (p : Byte) : frameItem frameCommand p = .cmd p := rfl

@[simp] theorem frameItem_data (p : Byte) : frameItem frameData p = .data p := rfl

/-! ### Events at frame boundaries -/

@[simp] theorem View.onlyAtBoundary_nil (p : Event → Bool) (v : View) : v.onlyAtBoundary p [] = true := rfl

theorem View.onlyAtBoundary_append (p : Event → Bool) (v : View) (a b : List Event) :
    v.onlyAtBoundary p (a ++ b) = (v.onlyAtBoundary p a && (v.run a).onlyAtBoundary p b) := by
  induction a generalizing v with
  | nil => simp
  | cons e a ih => simp [View.onlyAtBoundary, ih, Bool.and_assoc]

/-- Where no event is picked, there is nothing to check. -/
theorem View.onlyAtBoundary_of_none {p : Event → Bool} {es : List Event} (h : ∀ e ∈ es, p e = false) (v : View) :
    v.onlyAtBoundary p es = true := by
  induction es generalizing v with
  | nil => rfl
  | cons e es ih =>
    simp [View.onlyAtBoundary, h e (by simp), ih (fun e' he' => h e' (by simp [he']))]

/-- A frame has no wait in it. -/
theorem waits_frameMicros (c : Config) (m p : Byte) : ∀ e ∈ eventsOf (frameMicros c m p), (!e.isPin) = false := by
  cases hs : c.hasSelect <;>
    simp [eventsOf_frameMicros, frameEventList, hs, sendEvents, Event.isPin]

/-- A frame that starts at a frame boundary with the clock high drives `CSN` only at its start and after its last bit
(41_frame_transmitter.md R102). -/
theorem View.select_frameMicros (c : Config) (q : Pins) (items : List Item) (m p : Byte) (h : q.sck = true) :
    (View.mk q [] items).onlyAtBoundary Event.drivesSelect (eventsOf (frameMicros c m p)) = true := by
  have hsend : ∀ b : Byte, ∀ e ∈ eventsOf (sendMicros b), Event.drivesSelect e = false := by
    simp [sendMicros, bitMicros, drive, eventsOf, Event.drivesSelect]
  obtain ⟨k, d, n⟩ := q
  subst h
  cases hs : c.hasSelect <;>
    simp [frameMicros, selectMicros, hs, View.onlyAtBoundary_append, View.onlyAtBoundary_of_none (hsend _),
      View.run_send_first, View.run_send_second, drive, eventsOf, View.event, View.onlyAtBoundary, Pins.rises, Pins.after,
      Pins.set]

/-! ### Programs as items -/

/-- The events of the statements `l` are those of the items, one after the other, so many as 70_reset_and_hazards.md R200 gives; from a
high clock at a frame boundary the walk appends the items, no wait falls inside a frame, and the clock is high at the end. -/
def Walks (c : Config) (l : List Micro) (items : List Item) : Prop :=
  eventsOf l = items.flatMap (itemEventList c) ∧
    (eventsOf l).length = (items.map (itemEvents c)).sum ∧
    ∀ (q : Pins) (before : List Item), q.sck = true →
      (q.afterAll (eventsOf l)).sck = true ∧
        (View.mk q [] before).run (eventsOf l) = ⟨q.afterAll (eventsOf l), [], before ++ items⟩ ∧
        (View.mk q [] before).onlyAtBoundary (fun e => !e.isPin) (eventsOf l) = true

theorem walks_nil (c : Config) : Walks c [] [] := by simp [Walks, eventsOf]

/-- A register write sends nothing. -/
theorem walks_write {c : Config} {l : List Micro} {items : List Item} (r : Reg) (v : Byte) (h : Walks c l items) :
    Walks c (.write r v :: l) items := h

/-- One program after another sends the items of both. -/
theorem walks_append {c : Config} {a b : List Micro} {x y : List Item} (ha : Walks c a x) (hb : Walks c b y) :
    Walks c (a ++ b) (x ++ y) := by
  refine ⟨by simp [ha.1, hb.1], by simp [ha.2.1, hb.2.1], fun q before hq => ?_⟩
  obtain ⟨ha1, ha2, ha3⟩ := ha.2.2 q before hq
  obtain ⟨hb1, hb2, hb3⟩ := hb.2.2 _ (before ++ x) ha1
  rw [eventsOf_append, Pins.afterAll_append, View.run_append, View.onlyAtBoundary_append, ha2, hb2, ha3, hb3, List.append_assoc]
  exact ⟨hb1, rfl, rfl⟩

/-- The pins after a frame. -/
theorem afterAll_frameMicros (c : Config) (q : Pins) (m p : Byte) :
    q.afterAll (eventsOf (frameMicros c m p)) =
      ⟨true, p.getLsbD 0, if c.hasSelect then true else q.csn⟩ := by
  obtain ⟨k, d, n⟩ := q
  cases hs : c.hasSelect <;>
    simp [eventsOf_frameMicros, frameEventList, hs, sendEvents, Pins.after, Pins.set]

theorem walks_frame (c : Config) (m p : Byte) : Walks c (frameMicros c m p) [frameItem m p] := by
  have hi : itemEvents c (frameItem m p) = frameEvents c := by
    unfold frameItem
    split
    · rfl
    · split <;> rfl
  have he : itemEventList c (frameItem m p) = frameEventList c m p := by
    unfold frameItem
    split
    · next hm => rw [hm]; rfl
    · split
      · next hm => rw [hm]; rfl
      · rfl
  refine ⟨by simp [he, eventsOf_frameMicros], by simp [length_frameMicros, hi], fun q before hq => ?_⟩
  rw [afterAll_frameMicros, View.run_frame c q before m p hq]
  exact ⟨rfl, rfl, View.onlyAtBoundary_of_none (waits_frameMicros c m p) _⟩

/-- A command frame sends `Cmd(p)` (41_frame_transmitter.md R103). -/
theorem walks_sendCommand (c : Config) (p : Byte) : Walks c (sendCommandMicros c p) [.cmd p] := walks_frame c _ p

/-- A data frame sends `Data(p)` (41_frame_transmitter.md R103). -/
theorem walks_sendData (c : Config) (p : Byte) : Walks c (sendDataMicros c p) [.data p] := walks_frame c _ p

/-- The settle wait sends itself. -/
theorem walks_settle (c : Config) : Walks c (settleMicros c) [.wait c.settleUs] := by
  refine ⟨rfl, rfl, fun q before hq => ⟨hq, rfl, rfl⟩⟩

/-- What a program sends, its events carry. -/
theorem carries_of_walks {s : State} {l : List Micro} {items : List Item} (h : Walks s.cfg l items) :
    Carries s (eventsOf l) items := by
  refine ⟨h.1, h.2.1, fun hs => ?_⟩
  obtain ⟨-, hv, hw⟩ := h.2.2 s.pins [] hs
  simp [frameView, wholeFrames, waitsBetweenFrames, View.start, hv, hw]

end Sys2Proof.Machine
end

