-- ==== Sys2Proof/Laws/Programs.lean ====
section
/-! SUPPORT. The shape of every program: register writes, whole frames and settle waits, and how many of each. A claim about
every instruction is an induction over this shape. -/

namespace Sys2Proof.Machine

/-- The statements `l` are register writes, `f` whole frames with one of the two markers, and `w` settle waits, in some order. -/
inductive Framed (c : Config) : List Micro → Nat → Nat → Prop where
  | nil : Framed c [] 0 0
  | write {l : List Micro} {f w : Nat} (r : Reg) (v : Byte) : Framed c l f w → Framed c (.write r v :: l) f w
  | frame {l : List Micro} {f w : Nat} (m p : Byte) (hm : m = frameCommand ∨ m = frameData) :
      Framed c l f w → Framed c (frameMicros c m p ++ l) (f + 1) w
  | settle {l : List Micro} {f w : Nat} : Framed c l f w → Framed c (settleMicros c ++ l) f (w + 1)

theorem framed_append {c : Config} {a b : List Micro} {f w g x : Nat} (ha : Framed c a f w) (hb : Framed c b g x) :
    Framed c (a ++ b) (f + g) (w + x) := by
  induction ha with
  | nil => simpa using hb
  | write r v _ ih => exact .write r v ih
  | frame m p hm _ ih =>
    rw [List.append_assoc, Nat.add_right_comm]
    exact .frame m p hm ih
  | settle _ ih =>
    rw [List.append_assoc, Nat.add_right_comm _ 1]
    exact .settle ih

theorem framed_sendCommand (c : Config) (p : Byte) : Framed c (sendCommandMicros c p) 1 0 := by
  simpa [sendCommandMicros] using Framed.frame (l := []) frameCommand p (.inl rfl) .nil

theorem framed_sendData (c : Config) (p : Byte) : Framed c (sendDataMicros c p) 1 0 := by
  simpa [sendDataMicros] using Framed.frame (l := []) frameData p (.inr rfl) .nil

theorem framed_settle (c : Config) : Framed c (settleMicros c) 0 1 := by
  simpa using Framed.settle (l := []) .nil

theorem framed_writes_if (c : Config) (P : Prop) [Decidable P] (r : Reg) (v : Byte) :
    Framed c (if P then [.write r v] else []) 0 0 := by
  split
  · exact .write r v .nil
  · exact .nil

theorem framed_control (c : Config) (v : Byte) : Framed c (controlMicros c v) 1 0 :=
  .write _ _ (framed_sendCommand c _)

theorem framed_entry (c : Config) (v : Byte) : Framed c (entryMicros c v) 1 0 :=
  .write _ _ (framed_sendCommand c _)

theorem framed_clear (s : State) : Framed s.cfg (clearProgram s) 1 1 :=
  framed_append (framed_append (framed_sendCommand s.cfg _) (.write .currentLine 0 .nil)) (framed_settle s.cfg)

theorem framed_home (s : State) : Framed s.cfg (homeProgram s) 1 1 :=
  framed_append (framed_sendCommand s.cfg _) (framed_settle s.cfg)

theorem framed_createChar (slot g0 g1 g2 g3 g4 g5 g6 g7 : Byte) (s : State) :
    Framed s.cfg (createCharProgram slot g0 g1 g2 g3 g4 g5 g6 g7 s) 9 0 := by
  simp only [createCharProgram, List.flatMap_cons, List.flatMap_nil]
  have d := framed_sendData s.cfg
  exact framed_append (framed_sendCommand s.cfg _) (framed_append (d g0) (framed_append (d g1) (framed_append (d g2)
    (framed_append (d g3) (framed_append (d g4) (framed_append (d g5) (framed_append (d g6)
      (framed_append (d g7) .nil))))))))

theorem framed_begin {rows dotSize : Byte} {s : State} {l : List Micro} (h : beginProgram rows dotSize s = .ok l) :
    Framed s.cfg l 7 2 := by
  unfold beginProgram at h
  split at h
  · cases h
  · cases h
    have c := framed_sendCommand s.cfg
    exact framed_append (framed_append (framed_append (framed_append (framed_append (framed_append (framed_append
      (framed_append (framed_append (framed_writes_if _ _ _ _) (.write _ _ (.write _ _ .nil))) (framed_writes_if _ _ _ _))
      (framed_clear s)) (framed_home s)) (c _)) (framed_entry _ _)) (c _)) (framed_control _ _)) (c _)

theorem framed_setCursor {col row : Byte} {s : State} {l : List Micro} (h : setCursorProgram col row s = .ok l) :
    Framed s.cfg l 1 0 := by
  unfold setCursorProgram at h
  split at h
  · cases h
    exact framed_sendCommand _ _
  · cases h

/-- Every instruction but the lone byte is framed, with the counts of 70_reset_and_hazards.md R200. -/
theorem program_framed {i : Instr} {s : State} {l : List Micro} (hi : isLoneByte i = false)
    (h : program i s = .ok l) : Framed s.cfg l (framesSent i) (waitsMade i) := by
  cases i with
  | begin cols rows dotSize => exact framed_begin h
  | setCursor col row => exact framed_setCursor h
  | send b => simp [isLoneByte] at hi
  | clear => cases h; exact framed_clear s
  | home => cases h; exact framed_home s
  | createChar slot g0 g1 g2 g3 g4 g5 g6 g7 => cases h; exact framed_createChar ..
  | display | noDisplay | cursor | noCursor | blink | noBlink => cases h; exact framed_control _ _
  | ltr | rtl | autoscroll | noAutoscroll => cases h; exact framed_entry _ _
  | write byte => cases h; exact framed_sendData _ _
  | sendData p => cases h; exact framed_sendData _ _
  | scrollLeft | scrollRight | cmdClear | cmdReturnHome => cases h; exact framed_sendCommand _ _
  | command p | sendCommand p | cmdDisplayShift p | cmdSetCgramAddr p | cmdSetDdramAddr p =>
    cases h; exact framed_sendCommand _ _
  | cmdEntryModeSet x y | cmdFunctionSet x y => cases h; exact framed_sendCommand _ _
  | cmdDisplayControl x y z => cases h; exact framed_sendCommand _ _

end Sys2Proof.Machine
end

