-- ==== Sys2Proof/Laws/Sequencer.lean ====
section
/-! SUPPORT. The sequencer does a program one event at a time and reaches what the whole program reaches. -/

namespace Sys2Proof.Machine

/-- Up to an event and then the rest is the whole. -/
theorem perform_stepEvent (l : List Micro) (s : State) :
    (stepEvent l s).2.perform (stepEvent l s).1 = s.perform l := by
  induction l generalizing s with
  | nil => rfl
  | cons m l ih => cases m <;> simp [stepEvent, ih]

@[simp] theorem stepEvent_cfg (l : List Micro) (s : State) : (stepEvent l s).2.cfg = s.cfg := by
  induction l generalizing s with
  | nil => rfl
  | cons m l ih => cases m <;> simp [stepEvent, ih]

@[simp] theorem stepEvent_host (l : List Micro) (s : State) : (stepEvent l s).2.host = s.host := by
  induction l generalizing s with
  | nil => rfl
  | cons m l ih => cases m <;> simp [stepEvent, ih]

@[simp] theorem stepEvent_inner (l : List Micro) (s : State) : (stepEvent l s).2.inner = s.inner := by
  induction l generalizing s with
  | nil => rfl
  | cons m l ih => cases m <;> simp [stepEvent, ih]

theorem settled_idle {s : State} (h : s.seq = none) : s.settled = s := by simp [State.settled, h]

theorem settled_busy {s : State} {b : Busy} (h : s.seq = some b) :
    s.settled = { s.perform b.todo with seq := none } := by simp [State.settled, h]

/-- What a resumed operation settles to is what its statements reach. -/
theorem State.settled_resume (s : State) (w : CmdWord) (l : List Micro) :
    (s.resume w l).settled = { s.perform l with seq := none } := by
  unfold State.resume
  split <;> simp [State.settled, State.perform_with_seq]

/-- One edge changes nothing about the state the operation in progress ends in. -/
theorem State.settled_tick (s : State) : s.tick.settled = s.settled := by
  unfold State.tick
  split
  · rfl
  · next b hb =>
    split
    · simp [State.settled, hb, State.perform_with_seq]
    · simp [State.settled_resume, settled_busy hb, perform_stepEvent]

@[simp] theorem State.settled_cfg (s : State) : s.settled.cfg = s.cfg := by
  unfold State.settled; split <;> simp

@[simp] theorem State.settled_host (s : State) : s.settled.host = s.host := by
  unfold State.settled; split <;> simp

@[simp] theorem State.settled_inner (s : State) : s.settled.inner = s.inner := by
  unfold State.settled; split <;> simp

@[simp] theorem State.tick_cfg (s : State) : s.tick.cfg = s.cfg := by
  rw [← State.settled_cfg, State.settled_tick, State.settled_cfg]

@[simp] theorem State.tick_host (s : State) : s.tick.host = s.host := by
  rw [← State.settled_host, State.settled_tick, State.settled_host]

@[simp] theorem State.tick_inner (s : State) : s.tick.inner = s.inner := by
  rw [← State.settled_inner, State.settled_tick, State.settled_inner]

theorem State.ticks_settled (s : State) (n : Nat) : (s.ticks n).settled = s.settled := by
  induction n generalizing s with
  | zero => rfl
  | succ n ih => rw [State.ticks, ih, State.settled_tick]

/-! ### What a step can do -/

/-- An accepted word either is unassigned and leaves the block busy with nothing, or is an instruction whose program the block is
busy with. -/
theorem State.accept_next {s t : State} {w : CmdWord} (h : s.accept w = .next t) :
    ∃ l, t = { s with seq := some ⟨w, l, edgesBefore s.cfg l⟩ } ∧
      (l = [] ∨ ∃ i, decodeHost w = .ok i ∧ program i s = .ok l) := by
  unfold State.accept at h
  split at h
  · cases h
    exact ⟨[], rfl, .inl rfl⟩
  · next i hi =>
    split at h
    · next l hl =>
      cases h
      exact ⟨l, rfl, .inr ⟨i, hi, hl⟩⟩
    · cases h

/-- A request that runs at an idle block is an instruction, run whole. -/
theorem runCall_next {r : Request} {s t : State} (h : runCall r s = .next t) : ∃ i, decode r = .ok i ∧ exec i s = .next t := by
  unfold runCall at h
  split at h
  · next i hi => exact ⟨i, hi, h⟩
  · cases h

/-- What a clock edge can do: reset; one edge of the sequencer; nothing; or the acceptance of a word by an idle block. -/
theorem clockEdge_next {s t : State} {p : PortIn} (h : s.clockEdge p = .next t) :
    t = s.resetBlock ∨ t = s.tick ∨ (s.cmdReady = true ∧ t = s) ∨ (s.cmdReady = true ∧ s.accept p.cmd = .next t) := by
  unfold State.clockEdge at h
  split at h
  · exact .inl (by cases h; rfl)
  · split at h
    · next hr =>
      split at h
      · exact .inr (.inr (.inr ⟨hr, h⟩))
      · exact .inr (.inr (.inl ⟨hr, by cases h; rfl⟩))
    · exact .inr (.inl (by cases h; rfl))

/-- Every next state of a step is one of these: one edge of the sequencer; a clock edge of the host's; a command word of the host's, run
whole from an idle block; or a request at an inner component, run whole from an idle block. -/
theorem step_next {s t : State} (h : step s = .next t) :
    t = s.tick ∨
      (∃ p rest, s.inner = none ∧ s.host = .edge p :: rest ∧ State.clockEdge { s with host := rest } p = .next t) ∨
      (∃ w rest i, s.inner = none ∧ s.host = .call w :: rest ∧ s.cmdReady = true ∧ decode (.host w) = .ok i ∧
        exec i { s with host := rest } = .next t) ∨
      (∃ q i, s.inner = some q ∧ s.cmdReady = true ∧ decode (innerRequest q) = .ok i ∧
        exec i { s with inner := none } = .next t) := by
  unfold step at h
  split at h
  · next q hq =>
    split at h
    · next hr =>
      obtain ⟨i, hi, he⟩ := runCall_next h
      exact .inr (.inr (.inr ⟨q, i, hq, hr, hi, he⟩))
    · exact .inl (by cases h; rfl)
  · next hq =>
    split at h
    · next p rest hp => exact .inr (.inl ⟨p, rest, hq, hp, h⟩)
    · next w rest hp =>
      split at h
      · next hr =>
        obtain ⟨i, hi, he⟩ := runCall_next h
        exact .inr (.inr (.inl ⟨w, rest, i, hq, hp, hr, hi, he⟩))
      · exact .inl (by cases h; rfl)
    · exact .inl (by cases h; rfl)

end Sys2Proof.Machine
end

