-- ==== Sys2Proof/Tests/Slice0.lean ====
section
/-! SUPPORT. Tests. Expected results come from 95_test_vectors.md and the rules it cites; the witnesses at the end show a state and
operands that meet the hypotheses of each statement. -/

namespace Sys2Proof.Tests
open Sys2Proof Sys2Proof.Machine

/-! ### Helpers -/

/-- The configuration of 95_test_vectors.md: default constants, 1 MHz, one cycle a step. -/
def testConfig (sel : Bool) : Config := ⟨sel, 2000, 1, 1000000, defaultCodes⟩

/-- The reset state of that configuration. -/
def fresh (sel : Bool) : State := State.resetWith (testConfig sel) []

/-- The reset state with a host. -/
def freshWith (sel : Bool) (h : List HostAct) : State := State.resetWith (testConfig sel) h

/-- The frame view of what an outcome added to the trace of `s`; `none` where it stopped. -/
def itemsOf (s : State) : Out → Option (List Item)
  | .next t => some (frameView s.pins (t.trace.drop s.trace.length))
  | _ => none

/-- The registers of an outcome: function, control, entry, lines, line. -/
def regsOf : Out → Option (List Byte)
  | .next t => some [t.functionFlags, t.controlFlags, t.entryFlags, t.lineCount, t.currentLine]
  | _ => none

/-- The pins of an outcome. -/
def pinsOf : Out → Option Pins
  | .next t => some t.pins
  | _ => none

/-- Events of an outcome from an empty trace: all, and after redundant drives are dropped. -/
def countsOf (s : State) : Out → Option (Nat × Nat)
  | .next t => some (t.trace.length, (reduce s.pins t.trace).length)
  | _ => none

/-- The state of an outcome; the given one where it stopped. -/
def stateOf (o : Out) (d : State) : State :=
  match o with
  | .next t => t
  | _ => d

/-- Both frame view and control register. -/
def controlOf (ct : Byte) (i : Instr) : Option (List Item) × Option (List Byte) :=
  let s := { fresh false with controlFlags := ct }
  (itemsOf s (exec i s), regsOf (exec i s))

/-- Both frame view and entry register. -/
def entryOf (en : Byte) (i : Instr) : Option (List Item) × Option (List Byte) :=
  let s := { fresh false with entryFlags := en }
  (itemsOf s (exec i s), regsOf (exec i s))

/-- Frame view of `SETCURSOR` with a line count. -/
def cursorOf (lc col row : Byte) : Option (List Item) :=
  let s := { fresh true with lineCount := lc }
  itemsOf s (exec (.setCursor col row) s)

/-- One edge without reset. -/
def offer (w : CmdWord) : PortIn := ⟨false, true, w⟩

/-! ### Well-formedness: an ill-formed term for each check -/

theorem test_begin_without_rows_is_ill_formed : (Instr.begin 20 0 0).wellFormed = false := by decide
theorem test_begin_with_rows_is_well_formed : (Instr.begin 20 2 0).wellFormed = true := by decide
theorem test_short_settle_is_ill_formed : (Config.mk true 1999 1 1000000 defaultCodes).wellFormed = false := by decide
theorem test_zero_cycles_is_ill_formed : (Config.mk true 2000 0 1000000 defaultCodes).wellFormed = false := by decide
theorem test_stopped_clock_is_ill_formed : (Config.mk true 2000 1 0 defaultCodes).wellFormed = false := by decide
theorem test_config_is_well_formed : (testConfig true).wellFormed = true := by decide

/-! ### Decoding: words written out from 30_encoding.md R60, R61, R71, R72 -/

theorem test_decode_begin : decode (.host 0x01140200000000000000) = .ok (.begin 20 2 0) := by decide
theorem test_decode_clear : decode (.host 0x02000000000000000000) = .ok .clear := by decide
theorem test_decode_home : decode (.host 0x03000000000000000000) = .ok .home := by decide
theorem test_decode_setCursor : decode (.host 0x0413FF00000000000000) = .ok (.setCursor 19 255) := by decide
theorem test_decode_display : decode (.host 0x05000000000000000000) = .ok .display := by decide
theorem test_decode_noDisplay : decode (.host 0x06000000000000000000) = .ok .noDisplay := by decide
theorem test_decode_cursor : decode (.host 0x07000000000000000000) = .ok .cursor := by decide
theorem test_decode_noCursor : decode (.host 0x08000000000000000000) = .ok .noCursor := by decide
theorem test_decode_blink : decode (.host 0x09000000000000000000) = .ok .blink := by decide
theorem test_decode_noBlink : decode (.host 0x0A000000000000000000) = .ok .noBlink := by decide
theorem test_decode_scrollLeft : decode (.host 0x0B000000000000000000) = .ok .scrollLeft := by decide
theorem test_decode_scrollRight : decode (.host 0x0C000000000000000000) = .ok .scrollRight := by decide
theorem test_decode_ltr : decode (.host 0x0D000000000000000000) = .ok .ltr := by decide
theorem test_decode_rtl : decode (.host 0x0E000000000000000000) = .ok .rtl := by decide
theorem test_decode_autoscroll : decode (.host 0x0F000000000000000000) = .ok .autoscroll := by decide
theorem test_decode_noAutoscroll : decode (.host 0x10000000000000000000) = .ok .noAutoscroll := by decide
theorem test_decode_createChar : decode (.host 0x1107FFFEFDFCFBFAF9F8) =
    .ok (.createChar 7 0xFF 0xFE 0xFD 0xFC 0xFB 0xFA 0xF9 0xF8) := by decide
theorem test_decode_write : decode (.host 0x12415A00000000000000) = .ok (.write 0x41) := by decide
theorem test_decode_command : decode (.host 0x130C0000000000000000) = .ok (.command 0x0C) := by decide
theorem test_decode_sendCommand : decode (.frame 0xF801) = .ok (.sendCommand 0x01) := by decide
theorem test_decode_sendData : decode (.frame 0xFAF8) = .ok (.sendData 0xF8) := by decide
theorem test_decode_send : decode (.wireByte 0x0C) = .ok (.send 0x0C) := by decide
theorem test_decode_cmdClear : decode (.wireCmd 0x01) = .ok .cmdClear := by decide
theorem test_decode_cmdReturnHome : decode (.wireCmd 0x02) = .ok .cmdReturnHome := by decide
theorem test_decode_cmdEntryModeSet : decode (.wireCmd 0x06) = .ok (.cmdEntryModeSet true false) := by decide
theorem test_decode_cmdDisplayControl : decode (.wireCmd 0x0C) = .ok (.cmdDisplayControl true false false) := by decide
theorem test_decode_cmdDisplayShift : decode (.wireCmd 0x1C) = .ok (.cmdDisplayShift true) := by decide
theorem test_decode_cmdFunctionSet : decode (.wireCmd 0x38) = .ok (.cmdFunctionSet true false) := by decide
theorem test_decode_cmdSetCgramAddr : decode (.wireCmd 0x58) = .ok (.cmdSetCgramAddr 3) := by decide
theorem test_decode_cmdSetDdramAddr : decode (.wireCmd 0xD4) = .ok (.cmdSetDdramAddr 0x54) := by decide
theorem test_decode_junk_operands : decode (.host 0x02FFFFFFFFFFFFFFFFFF) = .ok .clear := by decide
theorem test_decode_opcode_zero : decode (.host 0) = .error (.unassignedOpcode 0x00) := by decide
theorem test_decode_opcode_14 : decode (.host 0x14000000000000000000) = .error (.unassignedOpcode 0x14) := by decide
theorem test_decode_opcode_ff : decode (.host 0xFF410000000000000000) = .error (.unassignedOpcode 0xFF) := by decide
theorem test_decode_other_marker : decode (.frame 0xF901) = .error (.unknownMarker 0xF9) := by decide
theorem test_decode_no_command_bytes :
    ([0x00, 0x03, 0x10, 0x20, 0x2C, 0x14, 0x41, 0x7F] : List Byte).all
      (fun b => decode (.wireCmd b) == .error (.notACommandByte b)) = true := by decide
theorem test_table_word_send : decodeTableWord 8 0x00 = some (.send 0x00) := by decide
theorem test_table_word_frame : decodeTableWord 16 0xFA00 = some (.sendData 0) := by decide
theorem test_table_word_host : decodeTableWord 80 0x12410000000000000000 = some (.write 0x41) := by decide

/-! ### The primitives: V-SEND, V-FRAME, S1, S2 -/

theorem test_send_a5 : (fun t => (t.trace, t.pins)) (stateOf (exec (.send 0xA5) (fresh true)) (fresh true)) =
    ((let c := Event.pin .sck; let d := Event.pin .sda
      [c true, c false, d true, c true, c false, d false, c true, c false, d true, c true, c false, d false, c true,
       c false, d false, c true, c false, d true, c true, c false, d false, c true, c false, d true, c true]),
     ⟨true, true, true⟩) := by decide
theorem test_send_counts :
    ([0xF8, 0xFA, 0x00, 0xFF, 0x41, 0x01, 0xA5] : List Byte).map (fun b => countsOf (fresh true) (exec (.send b) (fresh true))) =
      [some (25, 18), some (25, 20), some (25, 16), some (25, 17), some (25, 19), some (25, 17), some (25, 23)] := by
  decide +kernel
theorem test_sendCommand_frame : countsOf (fresh true) (exec (.sendCommand 0x01) (fresh true)) = some (52, 37) ∧
    itemsOf (fresh true) (exec (.sendCommand 0x01) (fresh true)) = some [.cmd 0x01] ∧
    pinsOf (exec (.sendCommand 0x01) (fresh true)) = some ⟨true, true, true⟩ := by decide +kernel
theorem test_sendCommand_without_select : countsOf (fresh false) (exec (.sendCommand 0x00) (fresh false)) = some (50, 34) ∧
    countsOf (fresh false) (exec (.sendCommand 0xFF) (fresh false)) = some (50, 35) := by decide +kernel
theorem test_sendData_frame : countsOf (fresh true) (exec (.sendData 0x41) (fresh true)) = some (52, 41) ∧
    countsOf (fresh false) (exec (.sendData 0x41) (fresh false)) = some (50, 39) := by decide +kernel
theorem test_sendData_marker_payload :
    itemsOf (fresh false) (exec (.sendData 0xF8) (fresh false)) = some [.data 0xF8] := by decide +kernel

/-! ### Display operations: V-CLR, V-SC, V-SCROLL, V-CC, V-WR, V-CMD -/

theorem test_clear : itemsOf (fresh true) (exec .clear (fresh true)) = some [.cmd 0x01, .wait 2000] := by decide +kernel
theorem test_clear_registers :
    regsOf (exec .clear ⟨testConfig true, 0x1C, 0x07, 0x03, 4, 9, true, false, true, none, [], [], none⟩) =
      some [0x1C, 0x07, 0x03, 4, 0] := by decide +kernel
theorem test_home : itemsOf (fresh true) (exec .home (fresh true)) = some [.cmd 0x02, .wait 2000] := by decide +kernel
theorem test_home_registers :
    regsOf (exec .home ⟨testConfig true, 0x1C, 0x07, 0x03, 4, 9, true, false, true, none, [], [], none⟩) =
      some [0x1C, 0x07, 0x03, 4, 9] := by decide +kernel
theorem test_setCursor_rows :
    [cursorOf 1 3 2, cursorOf 2 5 1, cursorOf 2 5 2, cursorOf 2 19 255, cursorOf 2 0xC0 1, cursorOf 4 3 2,
     cursorOf 4 0 4, cursorOf 4 0x30 3, cursorOf 4 0xFF 3, cursorOf 5 0 3] =
      [some [.cmd 0x83], some [.cmd 0xC5], some [.cmd 0xC5], some [.cmd 0xD3], some [.cmd 0x80], some [.cmd 0x97],
       some [.cmd 0xD4], some [.cmd 0x84], some [.cmd 0xD3], some [.cmd 0xD4]] := by decide +kernel
theorem test_setCursor_refused :
    exec (.setCursor 0 4) { fresh true with lineCount := 5 } = .refused .rowOffsetOutOfTable ∧
    exec (.setCursor 0 200) { fresh true with lineCount := 255 } = .refused .rowOffsetOutOfTable ∧
    exec (.setCursor 0 0) { fresh true with lineCount := 0 } = .refused .lineCountZero := ⟨rfl, rfl, rfl⟩
theorem test_scrollLeft : itemsOf (fresh true) (exec .scrollLeft (fresh true)) = some [.cmd 0x18] := by decide +kernel
theorem test_scrollRight : itemsOf (fresh true) (exec .scrollRight (fresh true)) = some [.cmd 0x1C] := by decide +kernel
theorem test_createChar :
    itemsOf (fresh true) (exec (.createChar 9 0x0E 0x1B 0x11 0x11 0x11 0x11 0x1F 0x00) (fresh true)) =
      some [.cmd 0x48, .data 0x0E, .data 0x1B, .data 0x11, .data 0x11, .data 0x11, .data 0x11, .data 0x1F, .data 0x00] := by
  decide +kernel
theorem test_createChar_slots :
    ([8, 255, 0x80] : List Byte).map (fun k => (itemsOf (fresh true) (exec (.createChar k 1 2 3 4 5 6 7 8) (fresh true))).map (·.head?)) =
      [some (some (.cmd 0x40)), some (some (.cmd 0x78)), some (some (.cmd 0x40))] := by decide +kernel
theorem test_write : itemsOf (fresh true) (exec (.write 0x41) (fresh true)) = some [.data 0x41] := by decide +kernel
theorem test_command : itemsOf (fresh true) (exec (.command 0x01) (fresh true)) = some [.cmd 0x01] ∧
    regsOf (exec (.command 0x0C) (fresh true)) = some [0x10, 0x00, 0x00, 1, 0] := by decide +kernel

/-! ### Flag operations: V-CTL, V-ENT -/

theorem test_display : controlOf 0x03 .display = (some [.cmd 0x0F], some [0x10, 0x07, 0, 1, 0]) := by decide +kernel
theorem test_noDisplay : controlOf 0x07 .noDisplay = (some [.cmd 0x0B], some [0x10, 0x03, 0, 1, 0]) := by decide +kernel
theorem test_cursor : controlOf 0x05 .cursor = (some [.cmd 0x0F], some [0x10, 0x07, 0, 1, 0]) := by decide +kernel
theorem test_noCursor : controlOf 0x07 .noCursor = (some [.cmd 0x0D], some [0x10, 0x05, 0, 1, 0]) := by decide +kernel
theorem test_blink : controlOf 0x06 .blink = (some [.cmd 0x0F], some [0x10, 0x07, 0, 1, 0]) := by decide +kernel
theorem test_noBlink : controlOf 0x07 .noBlink = (some [.cmd 0x0E], some [0x10, 0x06, 0, 1, 0]) := by decide +kernel
theorem test_noBlink_resends : controlOf 0x00 .noBlink = (some [.cmd 0x08], some [0x10, 0x00, 0, 1, 0]) := by decide +kernel
theorem test_ltr : entryOf 0x01 .ltr = (some [.cmd 0x07], some [0x10, 0, 0x03, 1, 0]) := by decide +kernel
theorem test_rtl : entryOf 0x03 .rtl = (some [.cmd 0x05], some [0x10, 0, 0x01, 1, 0]) := by decide +kernel
theorem test_autoscroll : entryOf 0x02 .autoscroll = (some [.cmd 0x07], some [0x10, 0, 0x03, 1, 0]) := by decide +kernel
theorem test_noAutoscroll : entryOf 0x03 .noAutoscroll = (some [.cmd 0x06], some [0x10, 0, 0x02, 1, 0]) := by decide +kernel

/-! ### Command bytes: 30_encoding.md R61 to R69 -/

theorem test_command_bytes :
    ([.cmdClear, .cmdReturnHome, .cmdEntryModeSet false true, .cmdDisplayControl true false true, .cmdDisplayShift false,
      .cmdFunctionSet false true, .cmdSetCgramAddr 7, .cmdSetDdramAddr 0x14] : List Instr).map
        (fun i => itemsOf (fresh true) (exec i (fresh true))) =
      ([0x01, 0x02, 0x05, 0x0D, 0x18, 0x34, 0x78, 0x94] : List Byte).map (fun b => some [.cmd b]) := by decide +kernel

/-! ### BEGIN: V-BEGIN, S7 -/

theorem test_begin : itemsOf (fresh true) (exec (.begin 20 2 0) (fresh true)) =
    some [.cmd 0x01, .wait 2000, .cmd 0x02, .wait 2000, .cmd 0x38, .cmd 0x06, .cmd 0x80, .cmd 0x0C, .cmd 0x80] := by
  decide +kernel
theorem test_begin_registers :
    [regsOf (exec (.begin 20 2 0) (fresh true)), regsOf (exec (.begin 8 1 0) (fresh true)),
     regsOf (exec (.begin 8 1 0xFF) (fresh true)), regsOf (exec (.begin 8 2 1) (fresh true)),
     regsOf (exec (.begin 20 1 1) { fresh true with functionFlags := 0x18, controlFlags := 0x07, entryFlags := 0x01 })] =
      [some [0x18, 0x04, 0x02, 2, 0], some [0x10, 0x04, 0x02, 1, 0], some [0x14, 0x04, 0x02, 1, 0],
       some [0x18, 0x04, 0x02, 2, 0], some [0x1C, 0x04, 0x02, 1, 0]] := by decide +kernel
theorem test_begin_without_rows : exec (.begin 20 0 0) (fresh true) = .refused .lineCountZero := rfl

/-! ### Refusals, reset, handshake: V-REF, V-RST, V-HS -/

theorem test_call_unassigned : step (freshWith true [.call 0x14000000000000000000]) = .refused (.unassignedOpcode 0x14) :=
  rfl
theorem test_edge_unassigned :
    State.clockEdge (fresh true) (offer 0x14000000000000000000) =
      .next { fresh true with seq := some ⟨0x14000000000000000000, [], 0⟩ } ∧
    (State.tick { fresh true with seq := some ⟨0x14000000000000000000, [], 0⟩ }) = fresh true := ⟨rfl, rfl⟩
theorem test_reset_edge :
    State.clockEdge ⟨testConfig true, 0x1C, 0x07, 0x03, 4, 0, false, true, false, some ⟨0, [drive .sck true], 7⟩, [.wait 1], [], some (.wireByte 0)⟩
      ⟨true, true, 0x02000000000000000000⟩ = .next (fresh true) := rfl
theorem test_word_without_valid_not_accepted :
    State.clockEdge (fresh true) ⟨false, false, 0x02000000000000000000⟩ = .next (fresh true) := rfl
theorem test_busy_word_not_accepted :
    (let s := stateOf (State.clockEdge (fresh true) (offer 0x12410000000000000000)) (fresh true)
     (stateOf (s.clockEdge (offer 0x02000000000000000000)) s).seq.map Busy.word) = some 0x12410000000000000000 := by decide +kernel
theorem test_write_busy_time :
    (let s := stateOf (State.clockEdge (fresh true) (offer 0x12410000000000000000)) (fresh true)
     ((s.ticks 51).cmdReady, (s.ticks 52).cmdReady, itemsOf (fresh true) (.next (s.ticks 52)))) =
      (false, true, some [.data 0x41]) := by decide +kernel
theorem test_settle_rounds_up : settleEdges (Config.mk true 2000 1 3000001 defaultCodes) 2000 = 6001 := by decide +kernel
theorem test_first_step_runs : (step (State.reset.withFetchWord 80 0x12410000000000000000) =
    exec (.write 0x41) State.reset) := rfl
theorem test_first_step_runs_inner : step (State.reset.withFetchWord 16 0xF801) = exec (.sendCommand 0x01) State.reset ∧
    step (State.reset.withFetchWord 8 0x00) = exec (.send 0x00) State.reset ∧
    step (State.reset.withFetchWord 8 0x0C) = exec (.cmdDisplayControl true false false) State.reset := ⟨rfl, rfl, rfl⟩
theorem test_wait_inside_a_frame_is_seen :
    waitsBetweenFrames resetPins (sendEvents 0xF8 ++ [.wait 2000] ++ sendEvents 0x01) = false ∧
    waitsBetweenFrames resetPins (sendEvents 0xF8 ++ sendEvents 0x01 ++ [.wait 2000]) = true := by decide +kernel
theorem test_split_bracket_is_seen :
    (let es := [.pin .csn false] ++ sendEvents 0xF8 ++ [.pin .csn true, .pin .csn false] ++ sendEvents 0x01 ++ [.pin .csn true]
     (selectBetweenFrames resetPins es, bracketsHoldOneFrame resetPins 0 es)) = (false, false) := by decide +kernel

/-! ### Witnesses: for each statement with hypotheses, a state and operands that meet them -/

theorem witness_HostWordIsItsOpcodeAndOperands :
    decode (.host 0x0413FF5A000000000000) = .ok (.setCursor 19 255) ∧
    encode (.setCursor 19 255) = .host (0x0413FF5A000000000000 &&& operandMask (.setCursor 19 255)) := by decide
theorem witness_HostOpcodesOneToNineteenDecode :
    (1 ≤ (CmdWord.op 0x01140200000000000000).toNat ∧ (CmdWord.op 0x01140200000000000000).toNat ≤ 0x13) ∧
    (1 ≤ (CmdWord.op 0x13FF0000000000000000).toNat ∧ (CmdWord.op 0x13FF0000000000000000).toNat ≤ 0x13) ∧
    ¬ (1 ≤ (CmdWord.op 0x00140200000000000000).toNat ∧ (CmdWord.op 0x00140200000000000000).toNat ≤ 0x13) ∧
    ¬ (1 ≤ (CmdWord.op 0x14140200000000000000).toNat ∧ (CmdWord.op 0x14140200000000000000).toNat ≤ 0x13) := by decide
theorem witness_CommandByteDecodesToItsOwnRow :
    decode (.wireCmd 0x7F) ≠ .ok (.cmdSetCgramAddr 7) ∧ decode (.wireCmd 0x78) = .ok (.cmdSetCgramAddr 7) ∧
    encode (.cmdSetCgramAddr 7) = .wireCmd 0x78 := by decide
theorem witness_FlagPayloadsAreTheirCommandBytes :
    (0x03 : Byte) &&& ~~~0x03 = 0 ∧ (0x07 : Byte) &&& ~~~0x07 = 0 ∧
    (0x1C : Byte) &&& ~~~0x1C = 0 ∧ (0x1C : Byte) &&& 0x10 = 0x10 := by decide
theorem witness_StepRunsTheDecodedInstruction :
    (freshWith true [.call 0x12410000000000000000, .call 0]).host = .call 0x12410000000000000000 :: [.call 0] ∧
    (freshWith true [.call 0x12410000000000000000, .call 0]).inner = none ∧
    (freshWith true [.call 0x12410000000000000000, .call 0]).cmdReady = true ∧
    decode (.host 0x12410000000000000000) = .ok (.write 0x41) ∧
    { fresh true with inner := some (.wireByte 0xA5) }.cmdReady = true ∧
    decode (innerRequest (.wireByte 0xA5)) = .ok (.send 0xA5) := by decide
theorem witness_StepIsAnEdgeOtherwise :
    (freshWith true [.edge ⟨false, false, 0⟩]).host = .edge ⟨false, false, 0⟩ :: [] ∧ (fresh true).host = [] ∧
    (fresh true).inner = none ∧
    { freshWith true [.call 0] with seq := some ⟨0, [], 0⟩ }.cmdReady = false ∧
    { fresh true with seq := some ⟨0, [], 0⟩, inner := some (.wireByte 0) }.cmdReady = false := by decide
theorem witness_StepRefusesUnassignedOpcodes :
    (freshWith true [.call 0]).cmdReady = true ∧ (freshWith true [.call 0]).inner = none ∧ CmdWord.op 0 = 0 ∧
    0x14 ≤ (CmdWord.op 0x14000000000000000000).toNat ∧ 0x14 ≤ (CmdWord.op 0xFF000000000000000000).toNat := by decide
theorem witness_FetchedWordRunsNext : decodeTableWord 80 0x01140200000000000000 = some (.begin 20 2 0) ∧
    decodeTableWord 16 0xF801 = some (.sendCommand 1) ∧ decodeTableWord 8 0x0C = some (.cmdDisplayControl true false false) ∧
    decodeTableWord 8 0xA5 = some (.cmdSetDdramAddr 0x25) ∧ decodeTableWord 8 0x7F = some (.send 0x7F) := by decide
theorem witness_SendClocksEightBits : (fresh true).sck = true ∧ { fresh true with sck := false }.sck = false := by decide
theorem witness_FramesAreMarkerThenPayload : (fresh true).sck = true ∧ (fresh true).cfg.hasSelect = true ∧
    (fresh false).cfg.hasSelect = false := by decide
theorem witness_ClearSendsAndSettles : CmdWord.op 0x02FF0000000000000000 = 0x02 ∧ (fresh true).cmdReady = true ∧
    (fresh true).sck = true := by decide
theorem witness_HomeSendsAndSettles : CmdWord.op 0x03FF0000000000000000 = 0x03 ∧ (fresh true).cmdReady = true := by decide
theorem witness_SetCursorAddressesTheClampedRow :
    CmdWord.op 0x04050200000000000000 = 0x04 ∧ 1 ≤ (fresh true).lineCount.toNat ∧
    ([0x00, 0x40, 0x14, 0x54] : List Byte)[min (0 : Byte).toNat ((1 : Byte).toNat - 1)]? = some 0x00 ∧
    ([0x00, 0x40, 0x14, 0x54] : List Byte)[min (2 : Byte).toNat ((2 : Byte).toNat - 1)]? = some 0x40 ∧
    ([0x00, 0x40, 0x14, 0x54] : List Byte)[min (3 : Byte).toNat ((255 : Byte).toNat - 1)]? = some 0x54 ∧
    3 < min (4 : Byte).toNat ((5 : Byte).toNat - 1) ∧ 3 < min (255 : Byte).toNat ((255 : Byte).toNat - 1) := by decide
theorem witness_ScrollsSendTheirShiftCommand : CmdWord.op 0x0B000000000000000000 = 0x0B ∧
    CmdWord.op 0x0C000000000000000000 = 0x0C ∧ (fresh true).cfg.codes = defaultCodes := by decide
theorem witness_CreateCharSendsSlotAndGlyph : CmdWord.op 0x11090E1B111111111F00 = 0x11 ∧
    (9 : Byte) &&& 0x07 = 1 &&& 0x07 ∧ (0xF9 : Byte) &&& 0x07 = 1 &&& 0x07 := by decide
theorem witness_WriteSendsOneDataFrame : CmdWord.op 0x12410000000000000000 = 0x12 := by decide
theorem witness_RawCommandSendsOneCommandFrame : CmdWord.op 0x13010000000000000000 = 0x13 := by decide
theorem witness_CommandBytesGoOutInOneCommandFrame :
    encode (.cmdEntryModeSet true true) = .wireCmd 0x07 ∧ encode (.cmdDisplayControl true true true) = .wireCmd 0x0F ∧
    encode (.cmdDisplayShift true) = .wireCmd 0x1C ∧ encode (.cmdFunctionSet true true) = .wireCmd 0x3C ∧
    encode (.cmdSetCgramAddr 7) = .wireCmd 0x78 ∧ encode (.cmdSetDdramAddr 0x7F) = .wireCmd 0xFF := by decide
theorem witness_ControlOperationsChangeOneBitAndResend :
    (CmdWord.op 0x05000000000000000000 = 0x05 ∧ CmdWord.op 0x06000000000000000000 = 0x06 ∧
     CmdWord.op 0x07000000000000000000 = 0x07 ∧ CmdWord.op 0x08000000000000000000 = 0x08 ∧
     CmdWord.op 0x09000000000000000000 = 0x09 ∧ CmdWord.op 0x0A000000000000000000 = 0x0A) ∧
    (controlOps (fresh true).cfg.codes).map Prod.fst =
      [.display, .noDisplay, .cursor, .noCursor, .blink, .noBlink] := by decide
theorem witness_EntryOperationsChangeOneBitAndResend :
    (CmdWord.op 0x0D000000000000000000 = 0x0D ∧ CmdWord.op 0x0E000000000000000000 = 0x0E ∧
     CmdWord.op 0x0F000000000000000000 = 0x0F ∧ CmdWord.op 0x10000000000000000000 = 0x10) ∧
    (entryOps (fresh true).cfg.codes).map Prod.fst = [.ltr, .rtl, .autoscroll, .noAutoscroll] := by decide
theorem witness_ControlSequencesAccumulate (s : State) :
    ∀ p ∈ controlOps s.cfg.codes ++ controlOps s.cfg.codes, p ∈ controlOps s.cfg.codes := by simp
theorem witness_EntrySequencesAccumulate (s : State) :
    ∀ p ∈ entryOps s.cfg.codes ++ entryOps s.cfg.codes, p ∈ entryOps s.cfg.codes := by simp
theorem witness_PairedInverseCallsLeaveTheBitAsTheLastSays :
    (Instr.autoscroll, Instr.noAutoscroll, Reg.entryFlags, (0x01 : Byte)) ∈ flagPairs (fresh true).cfg.codes ∧
    (fresh true).reg .entryFlags &&& 0x01 = 0 ∧
    { fresh true with entryFlags := 0x03 }.reg .entryFlags &&& 0x01 ≠ 0 := by decide
theorem witness_BeginInitializesTheBlock : CmdWord.op 0x01140200000000000000 = 0x01 ∧ (1 : Byte) ≠ 0 ∧ (255 : Byte) ≠ 0 := by
  decide
theorem witness_SecondBeginKeepsFunctionBits : (2 : Byte) ≠ 0 ∧ (1 : Byte) ≠ 0 ∧
    requestedBits defaultCodes 2 0 = 0x08 ∧ requestedBits defaultCodes 1 1 = 0x04 := by decide
theorem witness_RefusalsAreExactlyTheListed :
    exec (.begin 1 0 0) (fresh true) = .refused .lineCountZero ∧
    exec (.setCursor 0 4) { fresh true with lineCount := 5 } = .refused .rowOffsetOutOfTable ∧
    ∀ r, exec .clear (fresh true) ≠ .refused r := ⟨rfl, rfl, fun _ h => by simp [exec, execClear, runProgram] at h⟩
theorem witness_LegalInstructionsComplete : (Instr.setCursor 0 255).wellFormed = true ∧
    1 ≤ { fresh true with lineCount := 4 }.lineCount.toNat ∧ { fresh true with lineCount := 4 }.lineCount.toNat ≤ 4 := by decide
/-- The state after an instruction, for the statements whose hypothesis is that it completes. -/
def after (i : Instr) (s : State) : State := stateOf (exec i s) s
/-- The outcome is a next state. -/
def completes : Out → Bool
  | .next _ => true
  | _ => false
/-- Where an outcome is a next state, it is the one `stateOf` gives. -/
theorem eq_stateOf (o : Out) (d : State) (h : completes o = true) : o = .next (stateOf o d) := by
  cases o with
  | next t => rfl
  | fault f => simp [completes] at h
  | refused r => simp [completes] at h
/-- Where an instruction completes, it ends in the state `after` gives. -/
theorem exec_after (i : Instr) (s : State) (h : completes (exec i s) = true) : exec i s = .next (after i s) := eq_stateOf _ _ h
theorem witness_UnlistedRegistersKeepTheirValues : exec (.write 0x41) (fresh true) = .next (after (.write 0x41) (fresh true)) ∧
    Reg.controlFlags ∉ writtenRegs (.write 0x41) := ⟨exec_after _ _ rfl, by decide⟩
theorem witness_OnlyBeginLoadsAHostValue :
    exec (.begin 20 2 0) (fresh true) = .next (after (.begin 20 2 0) (fresh true)) := exec_after _ _ rfl
theorem witness_CurrentLineReachesNothingElse : exec .home (fresh true) = .next (after .home (fresh true)) ∧
    exec (.begin 0 0 0) (fresh true) = .refused .lineCountZero := ⟨exec_after _ _ rfl, rfl⟩
theorem witness_DataChangesOnlyWhileClockIsLow : exec (.send 0) (fresh true) = .next (after (.send 0) (fresh true)) :=
  exec_after _ _ rfl
theorem witness_SelectBracketsEachFrame : (fresh true).cfg.hasSelect = true ∧ (fresh true).sck = true ∧
    (fresh true).csn = true ∧ isLoneByte (.begin 20 2 0) = false ∧
    exec (.begin 20 2 0) (fresh true) = .next (after (.begin 20 2 0) (fresh true)) := ⟨rfl, rfl, rfl, rfl, exec_after _ _ rfl⟩
theorem witness_NoSelectEventWithoutSelectLine : (fresh false).cfg.hasSelect = false ∧
    exec .home (fresh false) = .next (after .home (fresh false)) := ⟨rfl, exec_after _ _ rfl⟩
theorem witness_EventCountsAreThoseOfTheTable : isLoneByte .home = false ∧ (fresh false).sck = true ∧
    exec .home (fresh false) = .next (after .home (fresh false)) := ⟨rfl, rfl, exec_after _ _ rfl⟩
theorem witness_InstructionsSendWholeFrames : isLoneByte (.sendData 0) = false ∧ (fresh false).sck = true ∧
    exec (.sendData 0) (fresh false) = .next (after (.sendData 0) (fresh false)) := ⟨rfl, rfl, exec_after _ _ rfl⟩
theorem witness_WaitsComeOnlyFromClearAndHome :
    exec .home (fresh true) = .next (after .home (fresh true)) ∧
    (after .home (fresh true)).trace = (fresh true).trace ++ (after .home (fresh true)).trace ∧
    Event.wait 2000 ∈ (after .home (fresh true)).trace := ⟨exec_after _ _ rfl, (List.nil_append _).symm, by decide +kernel⟩
theorem witness_RedundantDrivesCarryNothing :
    WireEquiv ⟨true, false, true⟩ [.pin .sck true, .pin .sck false] [.pin .sck false, .pin .sda false] := by
  show reduce _ _ = reduce _ _
  decide
theorem witness_ResetEdgeRestoresTheResetState : (PortIn.mk true true 0x02000000000000000000).rst = true := rfl
theorem witness_BusyBlockIgnoresTheCommandPort : (offer 0).rst = false ∧
    { fresh true with seq := some ⟨0, [drive .sck true], 3⟩ }.cmdReady = false := by decide
theorem witness_IdleBlockStaysAsItIsWithoutAValidWord :
    (PortIn.mk false false 0x02000000000000000000).rst = false ∧ (fresh true).cmdReady = true ∧
    (PortIn.mk false false 0x02000000000000000000).cmdValid = false := by decide
theorem witness_PortsShowTheLatches : (fresh true).cfg.hasSelect = true ∧ (fresh false).cfg.hasSelect = false := by decide
theorem witness_AcceptingEdgeSamplesTheWord : (offer 0x02000000000000000000).rst = false ∧ (fresh true).cmdReady = true ∧
    (offer 0x02000000000000000000).cmdValid = true ∧ decode (.host (offer 0x02000000000000000000).cmd) = .ok .clear ∧
    decode (.host (offer 0x01140000000000000000).cmd) = .ok (.begin 20 0 0) ∧
    exec (.begin 20 0 0) (fresh true) = .refused .lineCountZero := ⟨rfl, rfl, rfl, by decide, by decide, rfl⟩
theorem witness_UnassignedOpcodeIsANoOperation : (offer 0x14000000000000000000).cmdValid = true ∧ (fresh true).cmdReady = true ∧
    CmdWord.op (offer 0).cmd = 0 ∧ 0x14 ≤ (CmdWord.op (offer 0x14000000000000000000).cmd).toNat := by decide
theorem witness_SequencerReachesWhatTheOperationGives : (fresh true).cmdReady = true ∧
    decode (.host 0x12410000000000000000) = .ok (.write 0x41) ∧
    exec (.write 0x41) (fresh true) = .next (after (.write 0x41) (fresh true)) := ⟨rfl, by decide, exec_after _ _ rfl⟩
theorem witness_BusyTimesOfTheSpec : (fresh true).cmdReady = true ∧ (fresh true).cfg.hasSelect = true ∧
    (fresh true).cfg.cyclesPerStep = 1 ∧ (fresh true).cfg.clkHz = 1000000 ∧ (fresh true).cfg.settleUs = 2000 ∧
    CmdWord.op 0x12410000000000000000 = 0x12 ∧ CmdWord.op 0x02000000000000000000 = 0x02 ∧
    CmdWord.op 0x11000000000000000000 = 0x11 ∧ CmdWord.op 0x01140200000000000000 = 0x01 ∧
    CmdWord.operand 0x01140200000000000000 1 ≠ 0 := by decide
/-- A state whose next step runs a whole operation, for the invariants. -/
def aboutToWrite : State := freshWith true [.call 0x12410000000000000000]
theorem aboutToWrite_next : step aboutToWrite = .next (stateOf (step aboutToWrite) aboutToWrite) := eq_stateOf _ _ rfl
theorem witness_HostSurfaceIsTheNineteenOperations : decode (.host 0x12410000000000000000) = .ok (.write 0x41) ∧
    aboutToWrite.inner = none ∧ step aboutToWrite = .next (stateOf (step aboutToWrite) aboutToWrite) :=
  ⟨by decide, rfl, aboutToWrite_next⟩
theorem witness_IdlePinsStayHigh : IdlePinsInv aboutToWrite ∧
    step aboutToWrite = .next (stateOf (step aboutToWrite) aboutToWrite) := ⟨⟨rfl, rfl⟩, aboutToWrite_next⟩
theorem witness_FlagRegistersStayInRange : FlagRangeInv aboutToWrite ∧
    FlagRangeInv { aboutToWrite with functionFlags := 0x1C, controlFlags := 0x07, entryFlags := 0x03 } ∧
    step aboutToWrite = .next (stateOf (step aboutToWrite) aboutToWrite) :=
  ⟨⟨rfl, rfl, rfl, rfl, rfl⟩, ⟨rfl, rfl, rfl, rfl, rfl⟩, aboutToWrite_next⟩
theorem witness_LineCountStaysPositive : LineCountInv aboutToWrite ∧
    step aboutToWrite = .next (stateOf (step aboutToWrite) aboutToWrite) := ⟨by show 1 ≤ _; decide, aboutToWrite_next⟩
theorem witness_ConfigurationNeverChanges : step aboutToWrite = .next (stateOf (step aboutToWrite) aboutToWrite) := aboutToWrite_next
theorem witness_PinsFollowTheTrace : PinsFollowTraceInv aboutToWrite ∧
    step aboutToWrite = .next (stateOf (step aboutToWrite) aboutToWrite) := ⟨rfl, aboutToWrite_next⟩
theorem witness_TraceStaysWholeFrames : WholeFramesInv aboutToWrite ∧
    step aboutToWrite = .next (stateOf (step aboutToWrite) aboutToWrite) :=
  ⟨⟨by intro b; simp [aboutToWrite, freshWith, State.resetWith], rfl, rfl, rfl, rfl,
    by intro m p; simp [aboutToWrite, freshWith, State.resetWith, State.settled, frameView, View.run, View.start]⟩, aboutToWrite_next⟩
theorem witness_ResetMeetsTheInvariants : (testConfig true).codes = defaultCodes := rfl

end Sys2Proof.Tests
end

section
/-! PROOFS of 00_scope.md. A redundant drive is a stutter of the walk of 20_memory.md R46: it makes no edge and leaves the whole
view as it was. So the walk over a trace and over its reduction end in the same view, and the frame view is a function of the
reduction. -/

namespace Sys2Proof.Machine

/-! ### One event -/

theorem Pins.redundant_pin_iff {q : Pins} {p : Pin} {l : Level} : q.redundant (.pin p l) = true ↔ q.get p = l := beq_iff_eq

@[simp] theorem Pins.redundant_wait (q : Pins) (n : Nat) : q.redundant (.wait n) = false := rfl

@[simp] theorem Pins.set_get (q : Pins) (p : Pin) : q.set p (q.get p) = q := by cases p <;> rfl

/-- Only a change of level is an edge. -/
@[simp] theorem Pins.rises_get (q : Pins) (p : Pin) : q.rises (.pin p (q.get p)) = false := by
  cases p <;> simp [Pins.rises, Pins.get]

@[simp] theorem View.sample_pins (v : View) (b : Level) : (v.sample b).pins = v.pins := by
  simp only [View.sample]
  split <;> rfl

/-- The walk follows the pin levels. -/
@[simp] theorem View.event_pins (v : View) (e : Event) : (v.event e).pins = v.pins.after e := by
  cases e <;> rfl

theorem Pins.after_eq_of_redundant {q : Pins} {e : Event} (h : q.redundant e = true) : q.after e = q := by
  cases e with
  | pin p l =>
    obtain rfl := Pins.redundant_pin_iff.mp h
    exact q.set_get p
  | wait n => simp at h

theorem View.event_eq_of_redundant {v : View} {e : Event} (h : v.pins.redundant e = true) : v.event e = v := by
  cases e with
  | pin p l =>
    obtain rfl := Pins.redundant_pin_iff.mp h
    simp [View.event, Pins.after]
  | wait n => simp at h

/-! ### Whole traces -/

theorem reduce_cons_of_redundant {q : Pins} {e : Event} (h : q.redundant e = true) (es : List Event) :
    reduce q (e :: es) = reduce q es := by
  rw [reduce, if_pos h, Pins.after_eq_of_redundant h]

theorem reduce_cons_of_not_redundant {q : Pins} {e : Event} (h : ¬ q.redundant e = true) (es : List Event) :
    reduce q (e :: es) = e :: reduce (q.after e) es := if_neg h

@[simp] theorem View.run_pins (v : View) (es : List Event) : (v.run es).pins = v.pins.afterAll es := by
  induction es generalizing v with
  | nil => rfl
  | cons e es ih => simp [ih]

/-- The walk from any view, within a frame or between frames, ends in the same view over a trace and over its reduction. -/
@[simp] theorem View.run_reduce (v : View) (es : List Event) : v.run (reduce v.pins es) = v.run es := by
  induction es generalizing v with
  | nil => rfl
  | cons e es ih =>
    by_cases h : v.pins.redundant e = true
    · rw [reduce_cons_of_redundant h, View.run_cons, View.event_eq_of_redundant h, ih]
    · rw [reduce_cons_of_not_redundant h, View.run_cons, View.run_cons, ← View.event_pins, ih]

theorem View.run_start_reduce (q : Pins) (es : List Event) :
    (View.start q).run (reduce q es) = (View.start q).run es := (View.start q).run_reduce es

theorem frameView_reduce (q : Pins) (es : List Event) : frameView q (reduce q es) = frameView q es :=
  congrArg View.items (View.run_start_reduce q es)

theorem Pins.afterAll_reduce (q : Pins) (es : List Event) : q.afterAll (reduce q es) = q.afterAll es := by
  simpa [View.start] using congrArg View.pins (View.run_start_reduce q es)

theorem frameView_eq_of_wireEquiv {q : Pins} {a b : List Event} (h : WireEquiv q a b) : frameView q a = frameView q b :=
  calc frameView q a = frameView q (reduce q a) := (frameView_reduce q a).symm
    _ = frameView q (reduce q b) := congrArg (frameView q) h
    _ = frameView q b := frameView_reduce q b

/-- Settles O43: the walk ends in the same view over a trace and over its reduction, by induction on the trace. -/
theorem redundantDrivesCarryNothing : Obligations.RedundantDrivesCarryNothing :=
  fun q a _ => ⟨frameView_reduce q a, q.afterAll_reduce a, frameView_eq_of_wireEquiv⟩

end Sys2Proof.Machine
end

section
/-! PROOFS of 10_state.md. Seen from its next idle point a block does one of three things at a step: nothing, a reset, or one whole
instruction (`step_settled`). So an invariant of the idle points is two goals, reset and `exec`, and `exec` is known by the registers its
program writes (`writesOf_program`) and by its events (`program_framed`). The latches are followed statement by statement
(`StatementInvariant.step`), and the sequencer event by event (`busyFor_resume`). -/

namespace Sys2Proof.Machine

/-! ### A step, seen from the next idle point -/

/-- `s` with other coming acts of the host and another request at an inner component. -/
def State.withOutside (s : State) (a : List HostAct) (n : Option Inner) : State := { s with host := a, inner := n }

theorem State.cmdReady_iff {s : State} : s.cmdReady = true ↔ s.seq = none := Option.isNone_iff_eq_none

@[simp] theorem State.settled_seq (s : State) : s.settled.seq = none := by
  cases hs : s.seq with
  | none => rw [settled_idle hs, hs]
  | some b => rw [settled_busy hs]

theorem State.perform_withOutside (s : State) (a : List HostAct) (n : Option Inner) (l : List Micro) :
    (s.withOutside a n).perform l = (s.perform l).withOutside a n := by
  unfold State.withOutside
  rw [State.perform_with_inner { s with host := a } n, State.perform_with_host]

theorem State.settled_withOutside (s : State) (a : List HostAct) (n : Option Inner) :
    (s.withOutside a n).settled = s.settled.withOutside a n := by
  cases hs : s.seq with
  | none => rw [settled_idle hs, settled_idle (s := s.withOutside a n) hs]
  | some b =>
    rw [settled_busy hs, settled_busy (s := s.withOutside a n) hs, State.perform_withOutside]
    rfl

@[simp] theorem State.settled_resetBlock (s : State) : s.resetBlock.settled = s.resetBlock := settled_idle rfl

@[simp] theorem State.resetBlock_settled (s : State) : s.settled.resetBlock = s.resetBlock := by simp [State.resetBlock]

/-- A block made busy with a program settles to the program run. -/
theorem State.settled_with_seq {s : State} (hs : s.seq = none) (b : Busy) :
    { s with seq := some b }.settled = s.perform b.todo := by
  rw [settled_busy rfl, State.perform_with_seq, ← hs, ← State.perform_seq s b.todo]

theorem exec_settled {i : Instr} {s t : State} (hs : s.seq = none) (h : exec i s = .next t) : t.settled = t := by
  obtain ⟨l, -, rfl⟩ := exec_next_iff.mp h
  exact settled_idle (by rw [State.perform_seq, hs])

/-- A clock edge keeps the state at the next idle point, resets the block, or accepts a word whose instruction makes it. -/
theorem clockEdge_settled {s t : State} {p : PortIn} (h : s.clockEdge p = .next t) :
    t.settled = s.settled ∨ t.settled = s.settled.resetBlock ∨ ∃ i, exec i s.settled = .next t.settled := by
  obtain rfl | rfl | ⟨-, rfl⟩ | ⟨hr, ha⟩ := clockEdge_next h
  · exact .inr (.inl (by simp))
  · exact .inl s.settled_tick
  · exact .inl rfl
  · have hs := State.cmdReady_iff.mp hr
    obtain ⟨l, rfl, hl⟩ := State.accept_next ha
    rw [State.settled_with_seq hs, settled_idle hs]
    obtain rfl | ⟨i, -, hi⟩ := hl
    · exact .inl rfl
    · exact .inr (.inr ⟨i, exec_next_iff.mpr ⟨l, hi, rfl⟩⟩)

/-- What a step does to the state at the next idle point, but for the host's acts and the inner request: it is kept, it is reset, or one
whole instruction makes it. -/
theorem step_settled {s t : State} (h : step s = .next t) :
    ∃ a n, t.settled = s.settled.withOutside a n ∨ t.settled = (s.settled.withOutside a n).resetBlock ∨
      ∃ i, exec i (s.settled.withOutside a n) = .next t.settled := by
  obtain rfl | ⟨p, rest, -, -, hp⟩ | ⟨w, rest, i, -, -, hr, -, hi⟩ | ⟨q, i, -, hr, -, hi⟩ := step_next h
  · exact ⟨s.settled.host, s.settled.inner, .inl s.settled_tick⟩
  · exact ⟨rest, s.inner, s.settled_withOutside rest s.inner ▸ clockEdge_settled (s := s.withOutside rest s.inner) hp⟩
  · have hs := State.cmdReady_iff.mp hr
    refine ⟨rest, s.inner, .inr (.inr ⟨i, ?_⟩)⟩
    rwa [settled_idle hs, exec_settled (s := s.withOutside rest s.inner) hs hi]
  · have hs := State.cmdReady_iff.mp hr
    refine ⟨s.host, none, .inr (.inr ⟨i, ?_⟩)⟩
    rwa [settled_idle hs, exec_settled (s := s.withOutside s.host none) hs hi]

/-- What it takes for a property of idle points to be kept by every step. -/
structure IdleInvariant (P : State → Prop) : Prop where
  withOutside (s : State) (a : List HostAct) (n : Option Inner) : P s → P (s.withOutside a n)
  reset (s : State) : P s → P s.resetBlock
  exec (i : Instr) (s t : State) : P s → exec i s = .next t → P t

theorem IdleInvariant.step {P : State → Prop} (hP : IdleInvariant P) {s t : State} (hs : P s.settled) (h : step s = .next t) :
    P t.settled := by
  obtain ⟨a, n, ht | ht | ⟨i, hi⟩⟩ := step_settled h
  · exact ht ▸ hP.withOutside _ a n hs
  · exact ht ▸ hP.reset _ (hP.withOutside _ a n hs)
  · exact hP.exec i _ _ (hP.withOutside _ a n hs) hi

/-! ### A step, statement by statement -/

/-- What it takes for a property to be kept by every step, in the middle of an operation too. -/
structure StatementInvariant (P : State → Prop) : Prop where
  withOutside (s : State) (a : List HostAct) (n : Option Inner) : P s → P (s.withOutside a n)
  withSeq (s : State) (q : Option Busy) : P s → P { s with seq := q }
  reset (s : State) : P s → P s.resetBlock
  micro (s : State) (m : Micro) : P s → P (s.micro m)

section
variable {P : State → Prop} (hP : StatementInvariant P) {s t : State}
include hP

theorem StatementInvariant.perform (l : List Micro) (hs : P s) : P (s.perform l) := by
  induction l generalizing s with
  | nil => exact hs
  | cons m l ih => exact ih (hP.micro s m hs)

theorem StatementInvariant.stepEvent (l : List Micro) (hs : P s) : P (stepEvent l s).2 := by
  induction l generalizing s with
  | nil => exact hs
  | cons m l ih =>
    cases m with
    | write r v => exact ih (hP.micro s (.write r v) hs)
    | emit e => exact hP.micro s (.emit e) hs

theorem StatementInvariant.resume (w : CmdWord) (l : List Micro) (hs : P s) : P (s.resume w l) := by
  unfold State.resume
  split
  · exact hP.withSeq _ _ hs
  · exact hP.withSeq _ _ (hP.perform l hs)

theorem StatementInvariant.tick (hs : P s) : P s.tick := by
  unfold State.tick
  split
  · exact hs
  · split
    · exact hP.withSeq _ _ hs
    · exact hP.resume _ _ (hP.stepEvent _ hs)

theorem StatementInvariant.clockEdge {p : PortIn} (hs : P s) (h : s.clockEdge p = .next t) : P t := by
  obtain rfl | rfl | ⟨-, rfl⟩ | ⟨-, ha⟩ := clockEdge_next h
  · exact hP.reset _ hs
  · exact hP.tick hs
  · exact hs
  · obtain ⟨l, rfl, -⟩ := State.accept_next ha
    exact hP.withSeq _ _ hs

theorem StatementInvariant.exec {i : Instr} (hs : P s) (h : exec i s = .next t) : P t := by
  obtain ⟨l, -, rfl⟩ := exec_next_iff.mp h
  exact hP.perform l hs

theorem StatementInvariant.step (hs : P s) (h : step s = .next t) : P t := by
  obtain rfl | ⟨p, rest, -, -, hp⟩ | ⟨w, rest, i, -, -, -, -, hi⟩ | ⟨q, i, -, -, -, hi⟩ := step_next h
  · exact hP.tick hs
  · exact hP.clockEdge (hP.withOutside s rest s.inner hs) hp
  · exact hP.exec (hP.withOutside s rest s.inner hs) hi
  · exact hP.exec (hP.withOutside s s.host none hs) hi

end

theorem State.micro_pins (s : State) (m : Micro) : (s.micro m).pins = s.pins.afterAll (eventsOf [m]) := s.perform_pins [m]

theorem State.micro_trace (s : State) (m : Micro) : (s.micro m).trace = s.trace ++ eventsOf [m] := s.perform_trace [m]

/-- A statement drives the latches as it extends the trace, and a reset takes both back. -/
theorem statementInvariant_pinsFollowTrace : StatementInvariant PinsFollowTraceInv where
  withOutside _ _ _ h := h
  withSeq _ _ h := h
  reset _ _ := rfl
  micro s m h := by
    unfold PinsFollowTraceInv at h ⊢
    rw [State.micro_pins, State.micro_trace, Pins.afterAll_append, h]

/-- Settles O56: every statement drives the latches as the trace records it. -/
theorem pinsFollowTheTrace : Obligations.PinsFollowTheTrace :=
  fun _ _ => statementInvariant_pinsFollowTrace.step

theorem statementInvariant_cfg (c : Config) : StatementInvariant (fun s => s.cfg = c) where
  withOutside _ _ _ h := h
  withSeq _ _ h := h
  reset _ h := h
  micro s m h := (s.micro_cfg m).trans h

/-- Settles O55: no statement and no reset writes the configuration. -/
theorem configurationNeverChanges : Obligations.ConfigurationNeverChanges :=
  fun s _ h => (statementInvariant_cfg s.cfg).step rfl h

/-! ### The pins at idle points -/

/-- 10_state.md R32, of a state. -/
def IdlePins (s : State) : Prop := s.sck = true ∧ s.csn = true

theorem idlePins_iff {s : State} : IdlePins s ↔ s.pins.sck = true ∧ s.pins.csn = true := Iff.rfl

/-- A frame ends with the clock high and its select bracket closed, and a wait drives nothing. -/
theorem framed_idlePins {c : Config} {l : List Micro} {f w : Nat} (h : Framed c l f w) {s : State} (hs : IdlePins s) :
    IdlePins (s.perform l) := by
  induction h generalizing s with
  | nil => exact hs
  | write r v _ ih => exact ih (by simpa [IdlePins] using hs)
  | frame m p _ _ ih =>
    rw [State.perform_append]
    refine ih ?_
    rw [idlePins_iff, State.perform_pins, afterAll_frameMicros]
    exact ⟨rfl, by split; exacts [rfl, hs.2]⟩
  | settle _ ih => exact ih hs

theorem isLoneByte_iff {i : Instr} : isLoneByte i = true ↔ ∃ b, i = .send b := by
  cases i <;> simp [isLoneByte]

theorem idleInvariant_pins : IdleInvariant IdlePins where
  withOutside _ _ _ h := h
  reset _ _ := ⟨rfl, rfl⟩
  exec i s t hs h := by
    obtain ⟨l, hl, rfl⟩ := exec_next_iff.mp h
    cases hi : isLoneByte i with
    | false => exact framed_idlePins (program_framed hi hl) hs
    | true =>
      obtain ⟨b, rfl⟩ := isLoneByte_iff.mp hi
      cases hl
      rw [perform_sendMicros]
      exact ⟨rfl, hs.2⟩

/-- Settles O52: whole frames and the lone byte leave the clock high and the select line as idle. -/
theorem idlePinsStayHigh : Obligations.IdlePinsStayHigh :=
  fun _ _ => idleInvariant_pins.step

/-! ### The registers an instruction writes -/

/-- The register writes of a list of statements, in order. -/
def writesOf : List Micro → List (Reg × Byte)
  | []              => []
  | .write r v :: l => (r, v) :: writesOf l
  | .emit _ :: l    => writesOf l

@[simp] theorem writesOf_nil : writesOf [] = [] := rfl

@[simp] theorem writesOf_write (r : Reg) (v : Byte) (l : List Micro) : writesOf (.write r v :: l) = (r, v) :: writesOf l := rfl

@[simp] theorem writesOf_emit (e : Event) (l : List Micro) : writesOf (.emit e :: l) = writesOf l := rfl

@[simp] theorem writesOf_append (a b : List Micro) : writesOf (a ++ b) = writesOf a ++ writesOf b := by
  induction a with
  | nil => rfl
  | cons m a ih => cases m <;> simp [ih]

@[simp] theorem writesOf_send (b : Byte) : writesOf (sendMicros b) = [] := rfl

@[simp] theorem writesOf_frame (c : Config) (m p : Byte) : writesOf (frameMicros c m p) = [] := by
  cases hs : c.hasSelect <;> simp [frameMicros, selectMicros, hs, drive]

@[simp] theorem writesOf_sendCommand (c : Config) (p : Byte) : writesOf (sendCommandMicros c p) = [] := writesOf_frame ..

@[simp] theorem writesOf_sendData (c : Config) (p : Byte) : writesOf (sendDataMicros c p) = [] := writesOf_frame ..

@[simp] theorem writesOf_control (c : Config) (v : Byte) : writesOf (controlMicros c v) = [(.controlFlags, v)] := by
  simp [controlMicros]

@[simp] theorem writesOf_entry (c : Config) (v : Byte) : writesOf (entryMicros c v) = [(.entryFlags, v)] := by
  simp [entryMicros]

@[simp] theorem writesOf_settle (c : Config) : writesOf (settleMicros c) = [] := rfl

@[simp] theorem writesOf_clear (s : State) : writesOf (clearProgram s) = [(.currentLine, 0)] := by simp [clearProgram]

@[simp] theorem writesOf_home (s : State) : writesOf (homeProgram s) = [] := by simp [homeProgram]

/-- The register writes of `BEGIN` in state `s`, in order (44_begin.md R150). -/
def beginWrites (s : State) (rows dotSize : Byte) : List (Reg × Byte) :=
  (if rows > 1 then [(Reg.functionFlags, setBits s.functionFlags s.cfg.codes.fn2Line)] else []) ++
    [(Reg.lineCount, rows), (Reg.currentLine, 0)] ++
    (if dotSize ≠ 0 ∧ rows = 1 then [(Reg.functionFlags, setBits s.functionFlags s.cfg.codes.fn5x10)] else []) ++
    [(Reg.currentLine, 0), (Reg.entryFlags, s.cfg.codes.entLeft), (Reg.controlFlags, s.cfg.codes.ctlDisplayOn)]

/-- The register writes of an instruction in state `s`, in order (10_state.md R38, 43_register_ops.md R131 to R140). -/
def programWrites (s : State) : Instr → List (Reg × Byte)
  | .begin _ rows dotSize => beginWrites s rows dotSize
  | .clear => [(.currentLine, 0)]
  | .display => [(.controlFlags, setBits s.controlFlags s.cfg.codes.ctlDisplayOn)]
  | .noDisplay => [(.controlFlags, clearBits s.controlFlags s.cfg.codes.ctlDisplayOn)]
  | .cursor => [(.controlFlags, setBits s.controlFlags s.cfg.codes.ctlCursorOn)]
  | .noCursor => [(.controlFlags, clearBits s.controlFlags s.cfg.codes.ctlCursorOn)]
  | .blink => [(.controlFlags, setBits s.controlFlags s.cfg.codes.ctlBlinkOn)]
  | .noBlink => [(.controlFlags, clearBits s.controlFlags s.cfg.codes.ctlBlinkOn)]
  | .ltr => [(.entryFlags, setBits s.entryFlags s.cfg.codes.entLeft)]
  | .rtl => [(.entryFlags, clearBits s.entryFlags s.cfg.codes.entLeft)]
  | .autoscroll => [(.entryFlags, setBits s.entryFlags s.cfg.codes.entShiftInc)]
  | .noAutoscroll => [(.entryFlags, clearBits s.entryFlags s.cfg.codes.entShiftInc)]
  | _ => []

theorem beginProgram_ok {rows dotSize : Byte} {s : State} {l : List Micro} (h : beginProgram rows dotSize s = .ok l) :
    rows ≠ 0 ∧ writesOf l = beginWrites s rows dotSize := by
  unfold beginProgram at h
  split at h
  · cases h
  · next hrows =>
    cases h
    exact ⟨hrows, by simp [beginWrites, apply_ite writesOf]⟩

theorem writesOf_setCursor {col row : Byte} {s : State} {l : List Micro} (h : setCursorProgram col row s = .ok l) :
    writesOf l = [] := by
  unfold setCursorProgram at h
  split at h
  · cases h
    exact writesOf_sendCommand ..
  · cases h

theorem writesOf_createChar (slot g0 g1 g2 g3 g4 g5 g6 g7 : Byte) (s : State) :
    writesOf (createCharProgram slot g0 g1 g2 g3 g4 g5 g6 g7 s) = [] := by
  simp [createCharProgram]

theorem writesOf_program {i : Instr} {s : State} {l : List Micro} (h : program i s = .ok l) :
    writesOf l = programWrites s i := by
  cases i with
  | begin cols rows dotSize => exact (beginProgram_ok h).2
  | setCursor col row => exact writesOf_setCursor h
  | clear => cases h; exact writesOf_clear s
  | home => cases h; exact writesOf_home s
  | createChar slot g0 g1 g2 g3 g4 g5 g6 g7 => cases h; exact writesOf_createChar ..
  | display | noDisplay | cursor | noCursor | blink | noBlink => cases h; exact writesOf_control ..
  | ltr | rtl | autoscroll | noAutoscroll => cases h; exact writesOf_entry ..
  | send b => cases h; exact writesOf_send b
  | write byte => cases h; exact writesOf_sendData ..
  | sendData p => cases h; exact writesOf_sendData ..
  | scrollLeft | scrollRight | cmdClear | cmdReturnHome => cases h; exact writesOf_sendCommand ..
  | command p | sendCommand p | cmdDisplayShift p | cmdSetCgramAddr p | cmdSetDdramAddr p =>
    cases h; exact writesOf_sendCommand ..
  | cmdEntryModeSet x y | cmdFunctionSet x y => cases h; exact writesOf_sendCommand ..
  | cmdDisplayControl x y z => cases h; exact writesOf_sendCommand ..

/-! ### The registers after an instruction -/

theorem State.reg_writeReg (s : State) (r r' : Reg) (v : Byte) : (s.writeReg r v).reg r' = if r = r' then v else s.reg r' := by
  cases r <;> cases r' <;> rfl

@[simp] theorem State.reg_emit (s : State) (e : Event) (r : Reg) : (s.emit e).reg r = s.reg r := by
  cases r <;> simp [State.reg]

/-- A rule that the registers meet, and every written value, is met by the registers after the statements. -/
theorem State.reg_perform {R : Reg → Byte → Prop} {l : List Micro} (hw : ∀ w ∈ writesOf l, R w.1 w.2) {s : State}
    (hs : ∀ r, R r (s.reg r)) (r : Reg) : R r ((s.perform l).reg r) := by
  induction l generalizing s with
  | nil => exact hs r
  | cons m l ih =>
    cases m with
    | emit e => exact ih hw (fun r => by simpa using hs r)
    | write r' v =>
      obtain ⟨hv, hl⟩ := List.forall_mem_cons.mp hw
      refine ih hl fun r => ?_
      rw [State.micro_write, State.reg_writeReg]
      split
      · next he => exact he ▸ hv
      · exact hs r

theorem exec_reg {R : Reg → Byte → Prop} {i : Instr} {s t : State} (h : exec i s = .next t)
    (hw : ∀ w ∈ programWrites s i, R w.1 w.2) (hs : ∀ r, R r (s.reg r)) (r : Reg) : R r (t.reg r) := by
  obtain ⟨l, hl, rfl⟩ := exec_next_iff.mp h
  exact State.reg_perform (by rwa [writesOf_program hl]) hs r

theorem mem_allRegs (r : Reg) : r ∈ [Reg.functionFlags, .controlFlags, .entryFlags, .lineCount, .currentLine] := by
  cases r <;> decide

theorem programWrites_written (s : State) (i : Instr) : ∀ w ∈ programWrites s i, w.1 ∈ writtenRegs i := by
  cases i with
  | begin cols rows dotSize =>
    intro w _
    exact mem_allRegs w.1
  | clear | display | noDisplay | cursor | noCursor | blink | noBlink | ltr | rtl | autoscroll | noAutoscroll =>
    exact List.forall_mem_singleton.mpr (List.mem_singleton_self _)
  | _ => exact List.forall_mem_nil _

/-- Settles O33: the program of an instruction writes no register that is not listed. -/
theorem unlistedRegistersKeepTheirValues : Obligations.UnlistedRegistersKeepTheirValues := by
  intro i s t h
  have hreg (r : Reg) : r ∉ writtenRegs i → t.reg r = s.reg r :=
    exec_reg (R := fun r v => r ∉ writtenRegs i → v = s.reg r) h
      (fun w hw hr => absurd (programWrites_written s i w hw) hr) (fun _ _ => rfl) r
  obtain ⟨l, -, rfl⟩ := exec_next_iff.mp h
  exact ⟨hreg, by simp⟩

/-! ### The line count -/

/-- 10_state.md R34, of a state. -/
def LinePositive (s : State) : Prop := 1 ≤ s.lineCount.toNat

theorem exec_begin_rows {cols rows dotSize : Byte} {s t : State} (h : exec (.begin cols rows dotSize) s = .next t) : rows ≠ 0 := by
  obtain ⟨l, hl, -⟩ := exec_next_iff.mp h
  exact (beginProgram_ok hl).1

/-- A rule on the registers that the values `BEGIN` writes meet, and that the registers meet, is met after it. -/
theorem exec_begin_reg {R : Reg → Byte → Prop} {cols rows dotSize : Byte} {s t : State}
    (h : exec (.begin cols rows dotSize) s = .next t)
    (hfn : ∀ m ∈ [s.cfg.codes.fn2Line, s.cfg.codes.fn5x10], R .functionFlags (setBits s.functionFlags m))
    (hlc : R .lineCount rows) (hcl : R .currentLine 0) (hen : R .entryFlags s.cfg.codes.entLeft)
    (hct : R .controlFlags s.cfg.codes.ctlDisplayOn) (hs : ∀ r, R r (s.reg r)) (r : Reg) : R r (t.reg r) := by
  refine exec_reg h (fun w hw => ?_) hs r
  replace hw : w ∈ beginWrites s rows dotSize := hw
  simp only [beginWrites, List.mem_append, List.mem_cons, List.mem_ite_nil_right, List.not_mem_nil, or_false] at hw
  obtain ((⟨-, rfl⟩ | rfl | rfl) | ⟨-, rfl⟩) | rfl | rfl | rfl := hw
  · exact hfn _ (by simp)
  · exact hlc
  · exact hcl
  · exact hfn _ (by simp)
  · exact hcl
  · exact hen
  · exact hct

theorem exec_lineCount {i : Instr} {s t : State} (hi : .lineCount ∉ writtenRegs i) (h : exec i s = .next t) :
    t.lineCount = s.lineCount :=
  (unlistedRegistersKeepTheirValues i s t h).1 .lineCount hi

theorem idleInvariant_lineCount : IdleInvariant LinePositive where
  withOutside _ _ _ h := h
  reset _ _ := Nat.le_refl 1
  exec i s t hs h := by
    cases i with
    | begin cols rows dotSize =>
      have hrows : 1 ≤ rows.toNat := Nat.one_le_iff_ne_zero.mpr (BitVec.toNat_ne.mp (exec_begin_rows h))
      exact exec_begin_reg (R := fun r v => r = .lineCount → 1 ≤ v.toNat) h (by simp) (fun _ => hrows) (by simp) (by simp) (by simp)
        (by rintro _ rfl; exact hs) .lineCount rfl
    | clear | display | noDisplay | cursor | noCursor | blink | noBlink | ltr | rtl | autoscroll | noAutoscroll =>
      exact hs.trans_eq (congrArg BitVec.toNat (exec_lineCount (by decide) h).symm)
    | _ => exact hs.trans_eq (congrArg BitVec.toNat (exec_lineCount List.not_mem_nil h).symm)

/-- Settles O54: only `BEGIN` writes the line count, and it is refused without rows. -/
theorem lineCountStaysPositive : Obligations.LineCountStaysPositive :=
  fun _ _ => idleInvariant_lineCount.step

/-! ### The range of the flag registers -/

/-- 10_state.md R33, of the value of a register. -/
def FlagRange : Reg → Byte → Prop
  | .functionFlags, v => v &&& ~~~0x1C = 0 ∧ v &&& 0x10 = 0x10
  | .controlFlags, v  => v &&& ~~~0x07 = 0
  | .entryFlags, v    => v &&& ~~~0x03 = 0
  | _, _              => True

/-- 10_state.md R33, of a state. -/
def FlagsInRange (s : State) : Prop := s.cfg.codes = defaultCodes ∧ ∀ r, FlagRange r (s.reg r)

theorem flagRangeInv_iff {s : State} : FlagRangeInv s ↔ FlagsInRange s.settled := by
  unfold FlagsInRange
  rw [State.settled_cfg]
  constructor
  · rintro ⟨hc, hfn, hbus, hct, hen⟩
    refine ⟨hc, fun r => ?_⟩
    cases r with
    | functionFlags => exact ⟨hfn, hbus⟩
    | controlFlags => exact hct
    | entryFlags => exact hen
    | lineCount | currentLine => trivial
  · rintro ⟨hc, h⟩
    exact ⟨hc, (h .functionFlags).1, (h .functionFlags).2, h .controlFlags, h .entryFlags⟩

theorem setBits_within {r m x : Byte} (hr : r &&& x = 0) (hm : m &&& x = 0) : setBits r m &&& x = 0 := by
  rw [setBits, BitVec.and_or_distrib_right, hr, hm]
  rfl

theorem clearBits_within {r m x : Byte} (hr : r &&& x = 0) : clearBits r m &&& x = 0 := by
  rw [clearBits, BitVec.and_assoc, BitVec.and_comm _ x, ← BitVec.and_assoc, hr]
  exact BitVec.zero_and

theorem flagRange_functionFlags_setBits {r m : Byte} (hr : FlagRange .functionFlags r) (hm : m = 0x08 ∨ m = 0x04) :
    FlagRange .functionFlags (setBits r m) := by
  obtain ⟨hfn, hbus⟩ := hr
  refine ⟨setBits_within hfn (by obtain rfl | rfl := hm <;> decide), ?_⟩
  rw [setBits, BitVec.and_or_distrib_right, hbus]
  obtain rfl | rfl := hm <;> decide

theorem flagsInRange_resetWith {c : Config} (hc : c.codes = defaultCodes) (h : List HostAct) :
    FlagsInRange (State.resetWith c h) := by
  have hf : FlagRange .functionFlags c.codes.fnBus8 := by
    rw [hc]
    exact ⟨by decide, by decide⟩
  refine ⟨hc, fun r => ?_⟩
  cases r with
  | functionFlags => exact hf
  | controlFlags | entryFlags => exact BitVec.zero_and
  | lineCount | currentLine => trivial

theorem idleInvariant_flags : IdleInvariant FlagsInRange where
  withOutside _ _ _ h := h
  reset s h := flagsInRange_resetWith h.1 s.host
  exec i s t hs h := by
    obtain ⟨hc, hr⟩ := hs
    have hcfg : t.cfg = s.cfg := (unlistedRegistersKeepTheirValues i s t h).2.1
    refine ⟨hcfg ▸ hc, ?_⟩
    have single {r : Reg} {v : Byte} (hw : programWrites s i = [(r, v)]) (hv : FlagRange r v) : ∀ r, FlagRange r (t.reg r) :=
      exec_reg h (by rw [hw]; exact List.forall_mem_singleton.mpr hv) hr
    cases i with
    | begin cols rows dotSize =>
      refine exec_begin_reg h ?_ trivial trivial ?_ ?_ hr
      · rw [hc]
        intro m hm
        exact flagRange_functionFlags_setBits (hr .functionFlags) (by simpa [defaultCodes] using hm)
      · rw [hc]; exact (by decide : (0x02 : Byte) &&& ~~~0x03 = 0)
      · rw [hc]; exact (by decide : (0x04 : Byte) &&& ~~~0x07 = 0)
    | display | cursor | blink => exact single rfl (setBits_within (hr .controlFlags) (by rw [hc]; decide))
    | noDisplay | noCursor | noBlink => exact single rfl (clearBits_within (hr .controlFlags))
    | ltr | autoscroll => exact single rfl (setBits_within (hr .entryFlags) (by rw [hc]; decide))
    | rtl | noAutoscroll => exact single rfl (clearBits_within (hr .entryFlags))
    | clear => exact single rfl trivial
    | _ => exact exec_reg h (List.forall_mem_nil _) hr

/-- Settles O53: every value an instruction writes to a flag register lies in the register's range. -/
theorem flagRegistersStayInRange : Obligations.FlagRegistersStayInRange :=
  fun _ _ hs h => flagRangeInv_iff.mpr (idleInvariant_flags.step (flagRangeInv_iff.mp hs) h)

/-! ### The current line reaches nothing else -/

theorem program_with_currentLine (i : Instr) (s : State) (v : Byte) : program i { s with currentLine := v } = program i s := by
  cases i <;> rfl

/-- No statement reads `currentLine`. -/
theorem State.micro_with_currentLine (s : State) (v : Byte) (m : Micro) :
    ∃ v', { s with currentLine := v }.micro m = { s.micro m with currentLine := v' } := by
  cases m with
  | write r x => cases r <;> exact ⟨_, rfl⟩
  | emit e =>
    cases e with
    | wait n => exact ⟨v, rfl⟩
    | pin p l => cases p <;> exact ⟨v, rfl⟩

theorem State.perform_with_currentLine (s : State) (v : Byte) (l : List Micro) :
    ∃ v', { s with currentLine := v }.perform l = { s.perform l with currentLine := v' } := by
  induction l generalizing s v with
  | nil => exact ⟨v, rfl⟩
  | cons m l ih =>
    obtain ⟨x, hx⟩ := s.micro_with_currentLine v m
    obtain ⟨v', hv⟩ := ih (s.micro m) x
    exact ⟨v', by rw [State.perform_cons, hx, hv, State.perform_cons]⟩

/-- Settles O35: no program and no statement reads `currentLine`. -/
theorem currentLineReachesNothingElse : Obligations.CurrentLineReachesNothingElse := by
  intro i s v
  constructor
  · intro t h
    obtain ⟨l, hl, rfl⟩ := exec_next_iff.mp h
    obtain ⟨v', hv⟩ := s.perform_with_currentLine v l
    refine ⟨_, exec_next_iff.mpr ⟨l, by rw [program_with_currentLine, hl], rfl⟩, ?_⟩
    rw [hv]
  · intro r h
    rw [exec_eq_runProgram, runProgram_refused_iff] at h ⊢
    rw [program_with_currentLine, h]

/-! ### The sequencer and the whole operation -/

theorem nextEvent_eq_head? (l : List Micro) : nextEvent l = (eventsOf l).head? := by
  induction l with
  | nil => rfl
  | cons m l ih =>
    cases m with
    | write r v => exact ih
    | emit e => rfl

theorem eventsOf_stepEvent (l : List Micro) (s : State) : eventsOf (stepEvent l s).1 = (eventsOf l).tail := by
  induction l generalizing s with
  | nil => rfl
  | cons m l ih =>
    cases m with
    | write r v => exact ih _
    | emit e => rfl

theorem eventEdges_pos (c : Config) (e : Event) : 1 ≤ eventEdges c e := by
  cases e <;> exact Nat.le_max_left ..

theorem busyFor_succ {u : State} {n : Nat} (h : u.cmdReady = false) (hn : BusyFor u.tick n) : BusyFor u (n + 1) := by
  refine ⟨fun k hk => ?_, hn.2⟩
  cases k with
  | zero => exact h
  | succ k => exact hn.1 k (Nat.lt_of_succ_lt_succ hk)

/-- The edges that are left before the next event come on top. -/
theorem busyFor_left {s : State} {w : CmdWord} {l : List Micro} {n : Nat} (k : Nat)
    (h : BusyFor { s with seq := some ⟨w, l, 0⟩ } n) : BusyFor { s with seq := some ⟨w, l, k⟩ } (n + k) := by
  induction k with
  | zero => exact h
  | succ k ih => exact busyFor_succ rfl ih

/-- The edges of a list of events (70_reset_and_hazards.md R201). -/
def edgesOf (c : Config) (es : List Event) : Nat := (es.map (eventEdges c)).sum

@[simp] theorem edgesOf_nil (c : Config) : edgesOf c [] = 0 := rfl

@[simp] theorem edgesOf_cons (c : Config) (e : Event) (es : List Event) : edgesOf c (e :: es) = eventEdges c e + edgesOf c es := rfl

@[simp] theorem edgesOf_append (c : Config) (a b : List Event) : edgesOf c (a ++ b) = edgesOf c a + edgesOf c b := by
  simp [edgesOf]

theorem State.resume_of_events {l : List Micro} (hl : eventsOf l ≠ []) (s : State) (w : CmdWord) :
    s.resume w l = { s with seq := some ⟨w, l, edgesBefore s.cfg l⟩ } := by
  obtain ⟨e, es, he⟩ := List.exists_cons_of_ne_nil hl
  simp [State.resume, nextEvent_eq_head?, he]

/-- A resumed operation keeps the block busy for the edges of the events that are left. -/
theorem busyFor_resume (s : State) (w : CmdWord) (l : List Micro) : BusyFor (s.resume w l) (edgesOf s.cfg (eventsOf l)) := by
  induction hes : eventsOf l generalizing s l with
  | nil =>
    have hr : s.resume w l = { s.perform l with seq := none } := by simp [State.resume, nextEvent_eq_head?, hes]
    rw [hr]
    exact ⟨fun k hk => absurd hk (Nat.not_lt_zero k), rfl⟩
  | cons e es ih =>
    have hb : edgesBefore s.cfg l = eventEdges s.cfg e - 1 := by simp [edgesBefore, nextEvent_eq_head?, hes]
    have hn : edgesOf s.cfg (e :: es) = edgesOf s.cfg es + 1 + (eventEdges s.cfg e - 1) := by
      have := eventEdges_pos s.cfg e
      rw [edgesOf_cons]
      omega
    rw [State.resume_of_events (by simp [hes]), hb, hn]
    refine busyFor_left _ (busyFor_succ rfl ?_)
    have := ih (stepEvent l { s with seq := some ⟨w, l, 0⟩ }).2 (stepEvent l { s with seq := some ⟨w, l, 0⟩ }).1
      (by rw [eventsOf_stepEvent, hes, List.tail_cons])
    rwa [stepEvent_cfg] at this

/-- When the busy time is over, the block is where the operation in progress ends. -/
theorem ticks_of_busyFor {u : State} {n : Nat} (h : BusyFor u n) : u.ticks n = u.settled := by
  rw [← State.ticks_settled u n, settled_idle (State.cmdReady_iff.mp h.2)]

theorem edgesOf_frame (c : Config) (m p : Byte) :
    edgesOf c (eventsOf (frameMicros c m p)) = frameEvents c * max 1 c.cyclesPerStep := by
  have h : ∀ x ∈ (eventsOf (frameMicros c m p)).map (eventEdges c), x = max 1 c.cyclesPerStep := by
    rintro _ hx
    obtain ⟨e, he, rfl⟩ := List.mem_map.mp hx
    cases e with
    | pin p l => rfl
    | wait n => exact absurd (waits_frameMicros c m p _ he) (by simp [Event.isPin])
  rw [edgesOf, List.sum_eq_card_nsmul _ _ h, List.length_map, length_frameMicros, smul_eq_mul]

theorem framed_edges {c : Config} {l : List Micro} {f w : Nat} (h : Framed c l f w) :
    edgesOf c (eventsOf l) = f * frameEvents c * max 1 c.cyclesPerStep + w * max 1 (settleEdges c c.settleUs) := by
  induction h with
  | nil => simp [eventsOf]
  | write r v _ ih => exact ih
  | frame m p _ _ ih =>
    rw [eventsOf_append, edgesOf_append, edgesOf_frame, ih]
    ring
  | settle _ ih =>
    have hw : edgesOf c (eventsOf (settleMicros c)) = max 1 (settleEdges c c.settleUs) := rfl
    rw [eventsOf_append, edgesOf_append, hw, ih]
    ring

theorem frameEvents_pos (c : Config) : 0 < frameEvents c := by
  unfold frameEvents
  split <;> decide

theorem framed_events_ne_nil {c : Config} {l : List Micro} {f w : Nat} (h : Framed c l f w) (hf : 1 ≤ f) : eventsOf l ≠ [] := by
  induction h with
  | nil => exact absurd hf (Nat.not_succ_le_zero 0)
  | write r v _ ih => exact ih hf
  | frame m p _ _ _ =>
    rw [eventsOf_append]
    exact List.append_ne_nil_of_left_ne_nil (List.ne_nil_of_length_pos (by rw [length_frameMicros]; exact frameEvents_pos c)) _
  | settle _ _ => exact List.cons_ne_nil _ _

/-- The host's opcodes are no lone byte (44_begin.md R155). -/
theorem decodeHost_isLoneByte {w : CmdWord} {i : Instr} (h : decodeHost w = .ok i) : isLoneByte i = false := by
  unfold decodeHost decodeFields at h
  split at h <;> cases h <;> rfl

theorem framesSent_pos {i : Instr} (h : isLoneByte i = false) : 1 ≤ framesSent i := by
  cases i with
  | send b => cases h
  | begin cols rows dotSize => exact Nat.le_add_left 1 6
  | createChar slot g0 g1 g2 g3 g4 g5 g6 g7 => exact Nat.le_add_left 1 8
  | _ => exact Nat.le_refl 1

theorem accept_of_program {s : State} {w : CmdWord} {i : Instr} {l : List Micro} (hd : decodeHost w = .ok i)
    (hl : program i s = .ok l) : s.accept w = .next { s with seq := some ⟨w, l, edgesBefore s.cfg l⟩ } := by
  simp [State.accept, hd, hl]

/-- Settles O48: the accepted block is the resumed operation. -/
theorem sequencerReachesWhatTheOperationGives : Obligations.SequencerReachesWhatTheOperationGives := by
  intro s t w i hs hd h
  obtain ⟨l, hl, rfl⟩ := exec_next_iff.mp h
  have hi := decodeHost_isLoneByte hd
  have hf := program_framed hi hl
  have hb := busyFor_resume s w l
  rw [State.resume_of_events (framed_events_ne_nil hf (framesSent_pos hi)), framed_edges hf] at hb
  refine ⟨_, accept_of_program hd hl, hb, ?_⟩
  rw [ticks_of_busyFor hb, State.settled_with_seq (State.cmdReady_iff.mp hs)]

/-! ### Reset -/

theorem wholeFramesInv_resetWith (c : Config) (h : List HostAct) : WholeFramesInv (State.resetWith c h) :=
  ⟨fun _ => nofun, rfl, rfl, rfl, rfl, fun _ _ => List.not_mem_nil⟩

theorem flagRangeInv_resetWith {c : Config} (hc : c.codes = defaultCodes) (h : List HostAct) :
    FlagRangeInv (State.resetWith c h) :=
  flagRangeInv_iff.mpr (flagsInRange_resetWith hc h)

/-- Settles O58: an idle block is its own idle point, so each invariant is read off the reset table and the empty trace. -/
theorem resetMeetsTheInvariants : Obligations.ResetMeetsTheInvariants :=
  ⟨fun c h => ⟨⟨rfl, rfl⟩, Nat.le_refl 1, rfl, fun hc => flagRangeInv_resetWith hc h, wholeFramesInv_resetWith c h⟩,
    ⟨rfl, rfl⟩, flagRangeInv_resetWith rfl [], wholeFramesInv_resetWith _ _⟩

/-- Settles O59, field by field. -/
theorem resetLeavesTheSpecValues : Obligations.ResetLeavesTheSpecValues :=
  ⟨rfl, rfl, rfl, rfl, rfl, rfl, rfl, rfl, rfl, rfl, rfl, rfl, rfl⟩

end Sys2Proof.Machine
end

section
/-! PROOFS of 20_memory.md. The walk over a trace that is whole frames stands at a frame boundary, so whole frames and settle waits after
it make a longer such trace (`WholeTrace.append_framed`): one instruction does so from any pins with the clock high (O41). Where no lone
byte is placed, a step that is no reset does so to the trace at the next idle point (`step_framedStep`), and so keeps it whole (O57). -/

namespace Sys2Proof.Machine

/-! ### The step at an idle block -/

theorem runCall_of_decode {r : Request} {i : Instr} (h : decode r = .ok i) (s : State) : runCall r s = exec i s := by
  simp [runCall, h]

theorem step_of_call {s : State} {w : CmdWord} {rest : List HostAct} (hn : s.inner = none) (hh : s.host = .call w :: rest)
    (hr : s.cmdReady = true) : step s = runCall (.host w) { s with host := rest } := by
  simp [step, hn, hh, hr]

theorem step_of_inner {s : State} {q : Inner} (hq : s.inner = some q) (hr : s.cmdReady = true) :
    step s = runCall (innerRequest q) { s with inner := none } := by
  simp [step, hq, hr]

/-- Settles O8: at an idle block the step is the call of the request, and a decoded call is its instruction. -/
theorem stepRunsTheDecodedInstruction : Obligations.StepRunsTheDecodedInstruction :=
  ⟨fun _ _ _ _ hn hh hr hd => (step_of_call hn hh hr).trans (runCall_of_decode hd _),
    fun _ _ _ hq hr hd => (step_of_inner hq hr).trans (runCall_of_decode hd _)⟩

/-! ### Whole traces -/

/-- From pin levels `q` the events are whole frames, each with one of the two markers, and waits between them (20_memory.md R44, R46,
30_encoding.md R60), and they leave the clock high for the next frame. -/
structure WholeTrace (q : Pins) (es : List Event) : Prop where
  sck : (q.afterAll es).sck = true
  frames : wholeFrames q es = true
  waits : waitsBetweenFrames q es = true
  markers : ∀ m p, Item.other m p ∉ frameView q es

/-- Before any event all that matters is the clock. -/
theorem wholeTrace_nil {q : Pins} (hq : q.sck = true) : WholeTrace q [] := ⟨hq, rfl, rfl, fun _ _ => List.not_mem_nil⟩

/-- The walk over whole frames ends at a frame boundary. -/
theorem View.run_of_wholeFrames {q : Pins} {es : List Event} (h : wholeFrames q es = true) :
    (View.start q).run es = ⟨q.afterAll es, [], frameView q es⟩ := by
  have hp : ((View.start q).run es).pins = q.afterAll es := View.run_pins _ es
  have hb : ((View.start q).run es).bits = [] := List.isEmpty_iff.mp h
  rw [← hp, ← hb]
  rfl

/-- Items with the two markers, sent after a whole trace, make a whole trace. -/
theorem WholeTrace.append_walks {q : Pins} {es : List Event} {c : Config} {l : List Micro} {items : List Item}
    (h : WholeTrace q es) (hl : Walks c l items) (hm : ∀ m p, .other m p ∉ items) : WholeTrace q (es ++ eventsOf l) := by
  have he := View.run_of_wholeFrames h.frames
  obtain ⟨hsck, hrun, hwaits⟩ := hl.2.2 (q.afterAll es) (frameView q es) h.sck
  have hv : (View.start q).run (es ++ eventsOf l) = ⟨(q.afterAll es).afterAll (eventsOf l), [], frameView q es ++ items⟩ := by
    rw [View.run_append, he, hrun]
  refine ⟨?_, ?_, ?_, fun m p => ?_⟩
  · rwa [Pins.afterAll_append]
  · rw [wholeFrames, hv]
    rfl
  · have hes : (View.start q).onlyAtBoundary (fun e => !e.isPin) es = true := h.waits
    rw [waitsBetweenFrames, View.onlyAtBoundary_append, hes, he, hwaits]
    rfl
  · rw [frameView, hv]
    exact List.not_mem_append (h.markers m p) (hm m p)

theorem frameItem_ne_other {m : Byte} (hm : m = frameCommand ∨ m = frameData) (p m' p' : Byte) : frameItem m p ≠ .other m' p' := by
  obtain rfl | rfl := hm
  · simp
  · simp

/-- Frames with the two markers and settle waits, sent after a whole trace, make a whole trace. -/
theorem WholeTrace.append_framed {q : Pins} {es : List Event} {c : Config} {l : List Micro} {f w : Nat}
    (h : WholeTrace q es) (hl : Framed c l f w) : WholeTrace q (es ++ eventsOf l) := by
  induction hl generalizing es with
  | nil => rwa [eventsOf, List.append_nil]
  | write r v _ ih => exact ih h
  | frame m p hm _ ih =>
    rw [eventsOf_append, ← List.append_assoc]
    exact ih (h.append_walks (walks_frame c m p) fun m' p' => List.mem_singleton.not.mpr (frameItem_ne_other hm p m' p').symm)
  | settle _ ih =>
    rw [eventsOf_append, ← List.append_assoc]
    exact ih (h.append_walks (walks_settle c) (by simp))

/-- Settles O41: the program of such an instruction is frames and settle waits, sent after no event at all. -/
theorem instructionsSendWholeFrames : Obligations.InstructionsSendWholeFrames := by
  intro i s t hi hs h
  obtain ⟨l, hl, rfl⟩ := exec_next_iff.mp h
  have hw : WholeTrace s.pins (eventsOf l) := (wholeTrace_nil hs).append_framed (program_framed hi hl)
  exact ⟨eventsOf l, s.perform_trace l, hw.frames, hw.waits, hw.markers⟩

/-! ### A step without a lone byte -/

/-- Only the Bit Serializer is given a lone byte. -/
theorem decode_innerRequest_isLoneByte {q : Inner} {i : Instr} (hq : ∀ b, q ≠ .wireByte b)
    (h : decode (innerRequest q) = .ok i) : isLoneByte i = false := by
  cases q with
  | wireByte b => exact absurd rfl (hq b)
  | frame w =>
    simp only [innerRequest, decode, decodeFrame] at h
    split at h <;> cases h <;> rfl
  | wireCmd b =>
    simp only [innerRequest, decode, decodeCmd] at h
    split_ifs at h <;> cases h <;> rfl

/-- `t` is `s` reset, or `s` after whole frames and settle waits, perhaps none. -/
def FramedStep (s t : State) : Prop := t = s.resetBlock ∨ ∃ l f w, Framed s.cfg l f w ∧ t = s.perform l

theorem framedStep_refl (s : State) : FramedStep s s := .inr ⟨[], 0, 0, .nil, rfl⟩

/-- At an idle block, whatever is still to come from outside. -/
theorem exec_framedStep {i : Instr} {s t : State} {a : List HostAct} {n : Option Inner} (hr : s.cmdReady = true)
    (hi : isLoneByte i = false) (h : exec i (s.withOutside a n) = .next t) :
    FramedStep (s.settled.withOutside a n) t.settled := by
  have hs := State.cmdReady_iff.mp hr
  rw [settled_idle hs, exec_settled (s := s.withOutside a n) hs h]
  obtain ⟨l, hl, rfl⟩ := exec_next_iff.mp h
  exact .inr ⟨l, _, _, program_framed hi hl, rfl⟩

theorem clockEdge_framedStep {s t : State} {p : PortIn} (h : s.clockEdge p = .next t) : FramedStep s.settled t.settled := by
  obtain rfl | rfl | ⟨-, rfl⟩ | ⟨hr, ha⟩ := clockEdge_next h
  · exact .inl (by simp)
  · rw [State.settled_tick]
    exact framedStep_refl _
  · exact framedStep_refl _
  · have hs := State.cmdReady_iff.mp hr
    obtain ⟨l, rfl, hl⟩ := State.accept_next ha
    rw [State.settled_with_seq hs, settled_idle hs]
    obtain rfl | ⟨i, hd, hi⟩ := hl
    · exact framedStep_refl s
    · exact .inr ⟨l, _, _, program_framed (decodeHost_isLoneByte hd) hi, rfl⟩

/-- Where no lone byte is placed, a step resets the block, or does whole frames and settle waits, as seen from the next idle point and
but for the host's acts and the inner request, which is again no lone byte. -/
theorem step_framedStep {s t : State} (hn : NoLoneByte s) (h : step s = .next t) :
    ∃ a n, NoLoneByte (s.settled.withOutside a n) ∧ FramedStep (s.settled.withOutside a n) t.settled := by
  obtain rfl | ⟨p, rest, -, -, hp⟩ | ⟨w, rest, i, -, -, hr, hd, hi⟩ | ⟨q, i, hq, hr, hd, hi⟩ := step_next h
  · refine ⟨s.host, s.inner, hn, ?_⟩
    rw [State.settled_tick, ← State.settled_withOutside]
    exact framedStep_refl _
  · exact ⟨rest, s.inner, hn,
      s.settled_withOutside rest s.inner ▸ clockEdge_framedStep (s := s.withOutside rest s.inner) hp⟩
  · exact ⟨rest, s.inner, hn, exec_framedStep hr (decodeHost_isLoneByte hd) hi⟩
  · have hb (b : Byte) : q ≠ .wireByte b := fun h => hn b (h ▸ hq)
    exact ⟨s.host, none, fun _ => nofun, exec_framedStep hr (decode_innerRequest_isLoneByte hb hd) hi⟩

theorem FramedStep.noLoneByte {s t : State} (h : FramedStep s t) (hs : NoLoneByte s) : NoLoneByte t := by
  obtain rfl | ⟨l, f, w, -, rfl⟩ := h
  · exact fun _ => nofun
  · rwa [NoLoneByte, State.perform_inner]

theorem noLoneByte_settled {s : State} : NoLoneByte s.settled ↔ NoLoneByte s := by
  rw [NoLoneByte, NoLoneByte, State.settled_inner]

/-! ### The trace at idle points -/

theorem pinsFollowTrace_settled {s : State} (h : PinsFollowTraceInv s) : PinsFollowTraceInv s.settled := by
  unfold State.settled
  split
  · exact h
  · exact statementInvariant_pinsFollowTrace.perform _ h

theorem wholeFramesInv_iff {s : State} :
    WholeFramesInv s ↔ NoLoneByte s ∧ PinsFollowTraceInv s ∧ WholeTrace resetPins s.settled.trace := by
  have hsck (h : PinsFollowTraceInv s) : (resetPins.afterAll s.settled.trace).sck = s.settled.sck :=
    congrArg Pins.sck (pinsFollowTrace_settled h).symm
  constructor
  · rintro ⟨hn, hp, hs, hf, hw, hm⟩
    exact ⟨hn, hp, (hsck hp).trans hs, hf, hw, hm⟩
  · rintro ⟨hn, hp, hs, hf, hw, hm⟩
    exact ⟨hn, hp, (hsck hp).symm.trans hs, hf, hw, hm⟩

theorem FramedStep.wholeTrace {s t : State} (h : FramedStep s t) (hs : WholeTrace resetPins s.trace) : WholeTrace resetPins t.trace := by
  obtain rfl | ⟨l, f, w, hl, rfl⟩ := h
  · exact wholeTrace_nil rfl
  · rw [State.perform_trace]
    exact hs.append_framed hl

/-- Settles O57: at the next idle point the step left the trace to be extended by whole frames and settle waits, or started it anew. -/
theorem traceStaysWholeFrames : Obligations.TraceStaysWholeFrames := by
  intro s t hs h
  obtain ⟨hn, hp, hw⟩ := wholeFramesInv_iff.mp hs
  obtain ⟨a, n, hu, ht⟩ := step_framedStep hn h
  exact wholeFramesInv_iff.mpr ⟨noLoneByte_settled.mp (ht.noLoneByte hu), pinsFollowTheTrace s t hp h, ht.wholeTrace hw⟩

end Sys2Proof.Machine
end

section
/-! PROOFS of 30_encoding.md. A host word is its ten bytes (`CmdWord.eq_of_fields`), so a mask on the word is a mask on each byte, and the
decoder's branches name the row and the operands. A display command byte is read back as it was assembled, and the other way round, so the
decoder and the encoder are inverse to each other on the eight patterns. The rest is the step and the clock edge, one equation per case. -/

namespace Sys2Proof

/-! ### Bytes of a command word -/

theorem op_and (v w : CmdWord) : CmdWord.op (v &&& w) = CmdWord.op v &&& CmdWord.op w := BitVec.extractLsb'_and

theorem operand_and (v w : CmdWord) (k : Nat) : CmdWord.operand (v &&& w) k = CmdWord.operand v k &&& CmdWord.operand w k :=
  BitVec.extractLsb'_and

/-- The bytes of a command word are all of it (30_encoding.md R71). -/
theorem CmdWord.eq_of_fields {v w : CmdWord} (hop : CmdWord.op v = CmdWord.op w)
    (hp : ∀ k, k ≤ 8 → CmdWord.operand v k = CmdWord.operand w k) : v = w := by
  apply BitVec.eq_of_getLsbD_eq
  intro i hi
  by_cases h : 72 ≤ i
  · have hb := congrArg (BitVec.getLsbD · (i - 72)) hop
    simpa [CmdWord.op, show i - 72 < 8 by omega, show 72 + (i - 72) = i by omega] using hb
  · have hb := congrArg (BitVec.getLsbD · (i % 8)) (hp (8 - i / 8) (by omega))
    simpa [CmdWord.operand, show i % 8 < 8 by omega, show 64 - 8 * (8 - i / 8) + i % 8 = i by omega] using hb

/-- A mask on an assembled word is a mask on each byte. -/
theorem hostWord_and (a p0 p1 p2 p3 p4 p5 p6 p7 p8 b m0 m1 m2 m3 m4 m5 m6 m7 m8 : Byte) :
    hostWord a p0 p1 p2 p3 p4 p5 p6 p7 p8 &&& hostWord b m0 m1 m2 m3 m4 m5 m6 m7 m8 =
      hostWord (a &&& b) (p0 &&& m0) (p1 &&& m1) (p2 &&& m2) (p3 &&& m3) (p4 &&& m4) (p5 &&& m5) (p6 &&& m6) (p7 &&& m7)
        (p8 &&& m8) := by
  apply CmdWord.eq_of_fields
  · simp [op_and]
  · intro k hk
    interval_cases k <;> simp [operand_and]

/-- A command word is assembled from its own bytes (30_encoding.md R71). -/
theorem hostWord_fields (w : CmdWord) :
    hostWord (CmdWord.op w) (CmdWord.operand w 0) (CmdWord.operand w 1) (CmdWord.operand w 2) (CmdWord.operand w 3)
      (CmdWord.operand w 4) (CmdWord.operand w 5) (CmdWord.operand w 6) (CmdWord.operand w 7) (CmdWord.operand w 8) = w := by
  apply CmdWord.eq_of_fields
  · simp
  · intro k hk
    interval_cases k <;> simp

/-- The masks of `operandMask`, byte by byte: the opcode with 0, 1, 2, 3 or 9 operand bytes (30_encoding.md R73). -/
theorem operandMasks_bytewise :
    (0xFF000000000000000000 : CmdWord) = hostWord 0xFF 0 0 0 0 0 0 0 0 0 ∧
    (0xFFFF0000000000000000 : CmdWord) = hostWord 0xFF 0xFF 0 0 0 0 0 0 0 0 ∧
    (0xFFFFFF00000000000000 : CmdWord) = hostWord 0xFF 0xFF 0xFF 0 0 0 0 0 0 0 ∧
    (0xFFFFFFFF000000000000 : CmdWord) = hostWord 0xFF 0xFF 0xFF 0xFF 0 0 0 0 0 0 ∧
    (0xFFFFFFFFFFFFFFFFFFFF : CmdWord) = hostWord 0xFF 0xFF 0xFF 0xFF 0xFF 0xFF 0xFF 0xFF 0xFF 0xFF := by decide

@[simp] theorem and_0xFF (b : Byte) : b &&& 255#8 = b := BitVec.and_allOnes

/-! ### Host opcodes -/

/-- The bytes of a decoded host operation, but for those it ignores, are its encoding (30_encoding.md R72, R73). -/
theorem encode_of_decodeFields {op : Byte} {p : Nat → Byte} {i : Instr} (h : decodeFields op p = .ok i) :
    encode i = .host (hostWord op (p 0) (p 1) (p 2) (p 3) (p 4) (p 5) (p 6) (p 7) (p 8) &&& operandMask i) := by
  obtain ⟨m0, m1, m2, m3, m9⟩ := operandMasks_bytewise
  have hop : op = BitVec.ofNat 8 op.toNat := by simp
  unfold decodeFields at h
  split at h
  case h_20 => cases h
  all_goals
    next hn =>
    cases h
    rw [hn] at hop
    simp [encode, hostWordShort, operandMask, m0, m1, m2, m3, m9, hostWord_and, hop]

/-- The opcodes of 30_encoding.md R72 name the rows of the table. -/
theorem decodeFields_assigned {op : Byte} (p : Nat → Byte) (h : 1 ≤ op.toNat ∧ op.toNat ≤ 0x13) :
    ∃ i, decodeFields op p = .ok i ∧ i.row.format = .host ∧ i.row.value = op.toNat * 2 ^ 72 := by
  unfold decodeFields
  split
  case h_20 => simp only [imp_false] at *; omega
  all_goals
    next hn =>
    rw [hn]
    exact ⟨_, rfl, rfl, rfl⟩

/-- The opcodes of 30_encoding.md R78 are none. -/
theorem decodeFields_unassigned {op : Byte} (p : Nat → Byte) (h : ¬ (1 ≤ op.toNat ∧ op.toNat ≤ 0x13)) :
    decodeFields op p = .error (.unassignedOpcode op) := by
  unfold decodeFields
  split
  case h_20 => rfl
  all_goals omega

/-- Settles O2: the word is assembled from its bytes, and the mask clears those that the decoder ignores. -/
theorem hostWordIsItsOpcodeAndOperands : Obligations.HostWordIsItsOpcodeAndOperands := by
  intro w i h
  have he := encode_of_decodeFields h
  rwa [hostWord_fields] at he

/-- Settles O3: the nineteen branches of the decoder, and its last one. -/
theorem hostOpcodesOneToNineteenDecode : Obligations.HostOpcodesOneToNineteenDecode :=
  fun _ => ⟨decodeFields_assigned _, fun h => decodeFields_unassigned _ h⟩

/-! ### Frames -/

theorem decodeFrame_frameWord (m p : Byte) : decodeFrame (frameWord m p) =
    if m = 0xF8 then .ok (.sendCommand p) else if m = 0xFA then .ok (.sendData p) else .error (.unknownMarker m) := by
  unfold decodeFrame
  rw [marker_frameWord, payload_frameWord]
  split
  · rfl
  · rfl
  · next h8 hA => exact ((if_neg h8).trans (if_neg hA)).symm

/-- Settles O5: the marker and the payload come back from their places in the frame. -/
theorem frameWordDecodesByItsMarker : Obligations.FrameWordDecodesByItsMarker := decodeFrame_frameWord

/-! ### Display command bytes -/

/-- A byte with one of the eight patterns is its fixed bits with its letters in their places (30_encoding.md R61). -/
theorem encode_of_decodeCmd {b : Byte} {i : Instr} (h : decodeCmd b = .ok i) : encode i = .wireCmd b := by
  unfold decodeCmd at h
  split_ifs at h
  all_goals
    cases h
    refine congrArg Request.wireCmd ?_
    revert b
    decide

/-- No bit of an encoding is dropped: a byte comes back from its place in a host word or a frame, a letter from its place in a command
byte, whose eight patterns exclude each other. -/
theorem decode_encode (i : Instr) : decode (encode i) = .ok i := by
  cases i with
  | sendCommand p | sendData p => simp [encode, decode, decodeFrame_frameWord]
  | send b => rfl
  | cmdClear | cmdReturnHome => rfl
  | cmdDisplayShift r => revert r; decide
  | cmdEntryModeSet x y | cmdFunctionSet x y => revert x y; decide
  | cmdDisplayControl d c b => revert d c b; decide
  | cmdSetCgramAddr a | cmdSetDdramAddr a => revert a; decide
  | _ => simp [encode, hostWordShort, decode, decodeHost, decodeFields]

/-- Settles O1. -/
theorem decodeOfEncodeIsTheInstruction : Obligations.DecodeOfEncodeIsTheInstruction := decode_encode

/-- Settles O4: the decoder and the encoder are inverse to each other on the eight patterns. -/
theorem commandByteDecodesToItsOwnRow : Obligations.CommandByteDecodesToItsOwnRow :=
  fun _ i => ⟨encode_of_decodeCmd, fun h => h ▸ decode_encode i⟩

/-- Settles O6, word by word. -/
theorem wordsOfTheSpecDecode : Obligations.WordsOfTheSpecDecode :=
  ⟨rfl, rfl, rfl, rfl, rfl, rfl, rfl, rfl, rfl, rfl, rfl, rfl⟩

/-- Settles O7: the register's bits are the letters of the command byte, and the byte decodes to its own row. -/
theorem flagPayloadsAreTheirCommandBytes : Obligations.FlagPayloadsAreTheirCommandBytes := by
  have hentry : ∀ r : Byte, r &&& ~~~0x03 = 0 → cmdEntryModeSetByte (r.getLsbD 1) (r.getLsbD 0) = 0x04 ||| r := by decide
  have hcontrol : ∀ r : Byte, r &&& ~~~0x07 = 0 →
      cmdDisplayControlByte (r.getLsbD 2) (r.getLsbD 1) (r.getLsbD 0) = 0x08 ||| r := by decide
  have hfunction : ∀ r : Byte, r &&& ~~~0x1C = 0 → r &&& 0x10 = 0x10 →
      cmdFunctionSetByte (r.getLsbD 3) (r.getLsbD 2) = 0x20 ||| r := by decide
  intro r
  refine ⟨fun h => ?_, fun h => ?_, fun h h' => ?_⟩
  · exact (commandByteDecodesToItsOwnRow _ _).mpr (congrArg _ (hentry r h))
  · exact (commandByteDecodesToItsOwnRow _ _).mpr (congrArg _ (hcontrol r h))
  · exact (commandByteDecodesToItsOwnRow _ _).mpr (congrArg _ (hfunction r h h'))

end Sys2Proof

namespace Sys2Proof.Machine

/-! ### Command bytes on the wire -/

/-- Each of the eight is one command frame with its byte (30_encoding.md R61 to R69). -/
theorem program_of_encode_wireCmd {i : Instr} {b : Byte} (h : encode i = .wireCmd b) (s : State) :
    program i s = .ok (sendCommandMicros s.cfg b) := by
  cases i <;> cases h <;> rfl

/-- One command frame and no register write completes with the state otherwise unchanged (41_frame_transmitter.md R100, R103). -/
theorem completes_of_sendCommand {i : Instr} {s : State} {b : Byte} (h : program i s = .ok (sendCommandMicros s.cfg b)) :
    Completes i s s (b.getLsbD 0) [.cmd b] :=
  ⟨_, exec_next_iff.mpr ⟨_, h, (perform_frameMicros s frameCommand b).symm⟩, carries_of_walks (walks_sendCommand s.cfg b)⟩

/-- Settles O23: one command frame, and the byte letter by letter. -/
theorem commandBytesGoOutInOneCommandFrame : Obligations.CommandBytesGoOutInOneCommandFrame := by
  refine ⟨fun _ _ s h => completes_of_sendCommand (program_of_encode_wireCmd h s), rfl, rfl, ?_, ?_, ?_, ?_, fun _ => rfl,
    fun _ => rfl⟩
  all_goals decide

/-! ### The step -/

theorem step_of_edge {s : State} {p : PortIn} {rest : List HostAct} (hn : s.inner = none) (hh : s.host = .edge p :: rest) :
    step s = State.clockEdge { s with host := rest } p := by
  simp [step, hn, hh]

theorem step_of_no_act {s : State} (hn : s.inner = none) (hh : s.host = []) : step s = .next s.tick := by
  simp [step, hn, hh]

theorem step_of_busy_call {s : State} {w : CmdWord} {rest : List HostAct} (hn : s.inner = none) (hh : s.host = .call w :: rest)
    (hr : s.cmdReady = false) : step s = .next s.tick := by
  simp [step, hn, hh, hr]

theorem step_of_busy_inner {s : State} {q : Inner} (hq : s.inner = some q) (hr : s.cmdReady = false) : step s = .next s.tick := by
  simp [step, hq, hr]

/-- Settles O9: the step's equations, and an edge of the sequencer keeps what is presented. -/
theorem stepIsAnEdgeOtherwise : Obligations.StepIsAnEdgeOtherwise := fun s =>
  ⟨fun _ _ => step_of_edge, step_of_no_act, fun _ _ hn hh hr => ⟨step_of_busy_call hn hh hr, s.tick_host.trans hh⟩,
    fun _ hq hr => ⟨step_of_busy_inner hq hr, s.tick_inner.trans hq⟩⟩

theorem decodeTableWord_eq_some_iff {nbits w : Nat} {i : Instr} :
    decodeTableWord nbits w = some i ↔ decode (requestOfTableWord nbits w) = .ok i := by
  unfold decodeTableWord
  cases decode (requestOfTableWord nbits w) <;> simp

/-- The request of a placed table word is the next call, at the idle block. -/
theorem step_withFetchWord (s : State) (nbits w : Nat) :
    step (s.withFetchWord nbits w) = runCall (requestOfTableWord nbits w) { s with seq := none, inner := none } := by
  unfold State.withFetchWord
  cases requestOfTableWord nbits w with
  | host c => exact step_of_call rfl rfl rfl
  | frame f => exact step_of_inner (q := .frame f) rfl rfl
  | wireByte b => exact step_of_inner (q := .wireByte b) rfl rfl
  | wireCmd b => exact step_of_inner (q := .wireCmd b) rfl rfl

/-- Settles O12: the placed request is called, and a decoded call is its instruction. -/
theorem fetchedWordRunsNext : Obligations.FetchedWordRunsNext := fun s nbits w _ h =>
  (step_withFetchWord s nbits w).trans (runCall_of_decode (decodeTableWord_eq_some_iff.mp h) _)

/-! ### The ports and the clock edge -/

theorem State.portCsN_of_select {s : State} (h : s.cfg.hasSelect = true) : s.portCsN = s.csn := if_pos h

theorem State.portCsN_of_no_select {s : State} (h : s.cfg.hasSelect = false) : s.portCsN = true := by simp [State.portCsN, h]

/-- Settles O38: each port is its latch, and `cs_n` by the two cases of the select line. -/
theorem portsShowTheLatches : Obligations.PortsShowTheLatches := fun _ =>
  ⟨rfl, rfl, State.portCsN_of_select, State.portCsN_of_no_select, State.cmdReady_iff⟩

section
variable {s : State} {p : PortIn}

theorem clockEdge_of_busy (hp : p.rst = false) (hr : s.cmdReady = false) : s.clockEdge p = .next s.tick := by
  simp [State.clockEdge, hp, hr]

theorem clockEdge_of_no_word (hp : p.rst = false) (hr : s.cmdReady = true) (hv : p.cmdValid = false) : s.clockEdge p = .next s := by
  simp [State.clockEdge, hp, hr, hv]

theorem clockEdge_of_word (hp : p.rst = false) (hr : s.cmdReady = true) (hv : p.cmdValid = true) :
    s.clockEdge p = s.accept p.cmd := by
  simp [State.clockEdge, hp, hr, hv]

theorem State.tick_idle (hr : s.cmdReady = true) : s.tick = s := by
  simp [State.tick, State.cmdReady_iff.mp hr]

/-- The sequencer of an idle block is empty already. -/
theorem State.with_seq_none (hr : s.cmdReady = true) : { s with seq := none } = s := by
  rw [← State.cmdReady_iff.mp hr]

end

/-- Settles O45: the third case of the clock edge. -/
theorem busyBlockIgnoresTheCommandPort : Obligations.BusyBlockIgnoresTheCommandPort := fun _ _ => clockEdge_of_busy

/-- Settles O60: the edge without a word, and the idle sequencer. -/
theorem idleBlockStaysAsItIsWithoutAValidWord : Obligations.IdleBlockStaysAsItIsWithoutAValidWord :=
  ⟨fun _ _ => clockEdge_of_no_word, fun _ => State.tick_idle⟩

theorem accept_of_refusal {s : State} {w : CmdWord} {i : Instr} {r : Refusal} (hd : decodeHost w = .ok i)
    (hl : program i s = .error r) : s.accept w = .refused r := by
  simp [State.accept, hd, hl]

theorem accept_of_error {s : State} {w : CmdWord} {e : DecodeError} (hd : decodeHost w = .error e) :
    s.accept w = .next { s with seq := some ⟨w, [], 0⟩ } := by
  simp [State.accept, hd]

/-- Settles O46: the edge accepts the word, and the instruction is refused exactly where it has no program. -/
theorem acceptingEdgeSamplesTheWord : Obligations.AcceptingEdgeSamplesTheWord := by
  intro s p i hp hr hv hd
  rw [clockEdge_of_word hp hr hv]
  simp only [exec_eq_runProgram, ne_eq, runProgram_refused_iff]
  refine ⟨fun r hl => accept_of_refusal hd hl, fun hn => ?_⟩
  cases hl : program i s with
  | error r => exact absurd hl (hn r)
  | ok l => exact ⟨_, _, accept_of_program hd hl, rfl, rfl, rfl, State.with_seq_none hr⟩

/-- Settles O47: the word does not decode, so the block is busy with no statement. -/
theorem unassignedOpcodeIsANoOperation : Obligations.UnassignedOpcodeIsANoOperation := by
  intro s p hp hr hv hop
  have hn : ¬ (1 ≤ (CmdWord.op p.cmd).toNat ∧ (CmdWord.op p.cmd).toNat ≤ 0x13) := by
    obtain h | h := hop
    · simp [h]
    · omega
  rw [clockEdge_of_word hp hr hv, accept_of_error (decodeFields_unassigned _ hn)]
  exact ⟨_, rfl, rfl, rfl, State.with_seq_none hr⟩

end Sys2Proof.Machine
end

section
/-! PROOFS of 40_bit_serializer.md. `SEND` is a clock drive and then eight times the three events of one bit (`sendEvents_eq_bits`). From any
pin levels the three events of a bit sample that bit and drive it while the clock is low, so what is sampled and what is allowed follow
by induction on the bits; the level of the clock at the start matters to the first drive only. Every other instruction sends its bytes in
whole frames (`program_framed`), and beside the bytes there are only `CSN` drives, register writes and waits. -/

namespace Sys2Proof.Machine

/-! ### The bits of a byte as events -/

/-- The three events of one bit: clock low, data, clock high (R90). -/
def bitEvents (v : Level) : List Event := [.pin .sck false, .pin .sda v, .pin .sck true]

/-- The bits of a byte in the order in which they are sent, most significant first (R90). -/
def bitsOf (b : Byte) : List Level :=
  [b.getLsbD 7, b.getLsbD 6, b.getLsbD 5, b.getLsbD 4, b.getLsbD 3, b.getLsbD 2, b.getLsbD 1, b.getLsbD 0]

theorem sendEvents_eq_bits (b : Byte) : sendEvents b = .pin .sck true :: (bitsOf b).flatMap bitEvents := rfl

theorem exec_send (b : Byte) (s : State) :
    exec (.send b) s = .next { s with sck := true, sda := b.getLsbD 0, trace := s.trace ++ sendEvents b } := by
  rw [exec_next_iff]
  exact ⟨sendMicros b, rfl, (perform_sendMicros s b).symm⟩

/-- Settles O13: the program of `SEND`, run whole. -/
theorem sendEmitsItsTwentyFiveEvents : Obligations.SendEmitsItsTwentyFiveEvents := exec_send

/-! ### Clock edges -/

/-- One bit is sampled at each rising edge. -/
theorem length_sampledBits (q : Pins) (es : List Event) : (sampledBits q es).length = risingEdges q es := by
  induction es generalizing q with
  | nil => rfl
  | cons e es ih =>
    rw [sampledBits, risingEdges, List.length_append, ih]
    split <;> rfl

theorem sampledBits_bitEvents_append (q : Pins) (v : Level) (es : List Event) :
    sampledBits q (bitEvents v ++ es) = v :: sampledBits ⟨true, v, q.csn⟩ es := rfl

theorem fallingEdges_bitEvents_append {q : Pins} (hq : q.sck = true) (v : Level) (es : List Event) :
    fallingEdges q (bitEvents v ++ es) = fallingEdges ⟨true, v, q.csn⟩ es + 1 := by
  simp [bitEvents, fallingEdges, Pins.falls, Pins.after, Pins.set, hq, Nat.add_comm]

/-- Bits sent one after the other are the bits sampled. -/
theorem sampledBits_bits (q : Pins) (vs : List Level) : sampledBits q (vs.flatMap bitEvents) = vs := by
  induction vs generalizing q with
  | nil => rfl
  | cons v vs ih => rw [List.flatMap_cons, sampledBits_bitEvents_append, ih]

theorem fallingEdges_bits {q : Pins} (hq : q.sck = true) (vs : List Level) :
    fallingEdges q (vs.flatMap bitEvents) = vs.length := by
  induction vs generalizing q with
  | nil => rfl
  | cons v vs ih => rw [List.flatMap_cons, fallingEdges_bitEvents_append hq, ih rfl, List.length_cons]

/-- The first drive of `SEND` makes a rising edge only if the clock was low (R91). -/
theorem sampledBits_sendEvents (q : Pins) (b : Byte) :
    sampledBits q (sendEvents b) = (if q.sck then [] else [q.sda]) ++ bitsOf b := by
  rw [sendEvents_eq_bits, sampledBits, sampledBits_bits]
  cases hq : q.sck <;> simp [Pins.rises, hq]

theorem fallingEdges_sendEvents (q : Pins) (b : Byte) : fallingEdges q (sendEvents b) = 8 := by
  rw [sendEvents_eq_bits, fallingEdges, fallingEdges_bits rfl]
  rfl

/-- Settles O14: the sampled bits of `SEND`, and as many rising edges. -/
theorem sendClocksEightBits : Obligations.SendClocksEightBits := by
  intro b s
  have hbits := sampledBits_sendEvents s.pins b
  refine ⟨_, sendEvents b, exec_send b s, rfl, rfl, rfl, fun hs => ?_, fun hs => ?_⟩
  · replace hbits : sampledBits s.pins (sendEvents b) = bitsOf b := by simpa [State.pins, hs] using hbits
    exact ⟨by rw [← length_sampledBits, hbits]; rfl, fallingEdges_sendEvents s.pins b, hbits⟩
  · replace hbits : sampledBits s.pins (sendEvents b) = s.sda :: bitsOf b := by simpa [State.pins, hs] using hbits
    exact ⟨by rw [← length_sampledBits, hbits]; rfl, hbits⟩

/-! ### Data while the clock is low -/

theorem dataWhileLow_append (q : Pins) (a b : List Event) :
    dataWhileLow q (a ++ b) = (dataWhileLow q a && dataWhileLow (q.afterAll a) b) := by
  induction a generalizing q with
  | nil => rfl
  | cons e a ih => simp [dataWhileLow, ih, Bool.and_assoc]

theorem dataWhileLow_bits (q : Pins) (vs : List Level) : dataWhileLow q (vs.flatMap bitEvents) = true := by
  induction vs generalizing q with
  | nil => rfl
  | cons v vs ih =>
    rw [List.flatMap_cons, dataWhileLow_append, ih, Bool.and_true]
    rfl

theorem dataWhileLow_sendEvents (q : Pins) (b : Byte) : dataWhileLow q (sendEvents b) = true :=
  dataWhileLow_bits (q.set .sck true) (bitsOf b)

/-- Around the two bytes of a frame there are only `CSN` drives (41_frame_transmitter.md R100). -/
theorem dataWhileLow_frameMicros (c : Config) (q : Pins) (m p : Byte) :
    dataWhileLow q (eventsOf (frameMicros c m p)) = true := by
  rw [eventsOf_frameMicros, frameEventList]
  cases c.hasSelect <;> simp [dataWhileLow_append, dataWhileLow_sendEvents, dataWhileLow]

theorem framed_dataWhileLow {c : Config} {l : List Micro} {f w : Nat} (h : Framed c l f w) (q : Pins) :
    dataWhileLow q (eventsOf l) = true := by
  induction h generalizing q with
  | nil => rfl
  | write r v _ ih => exact ih q
  | frame m p _ _ ih => rw [eventsOf_append, dataWhileLow_append, dataWhileLow_frameMicros, ih, Bool.and_self]
  | settle _ ih => exact ih q

theorem program_dataWhileLow {i : Instr} {s : State} {l : List Micro} (h : program i s = .ok l) (q : Pins) :
    dataWhileLow q (eventsOf l) = true := by
  cases hi : isLoneByte i with
  | false => exact framed_dataWhileLow (program_framed hi h) q
  | true =>
    obtain ⟨b, rfl⟩ := isLoneByte_iff.mp hi
    cases h
    exact dataWhileLow_sendEvents q b

/-- Settles O36: from any pin levels no program, framed or the lone byte, drives data while the clock is high. -/
theorem dataChangesOnlyWhileClockIsLow : Obligations.DataChangesOnlyWhileClockIsLow := by
  intro i s t h
  obtain ⟨l, hl, rfl⟩ := exec_next_iff.mp h
  exact ⟨eventsOf l, s.perform_trace l, program_dataWhileLow hl s.pins⟩

end Sys2Proof.Machine
end

section
/-! PROOFS of 41_frame_transmitter.md. A frame is two `SEND`s between two `CSN` drives, and a `SEND` drives no `CSN`: so the select line
keeps its level over both bytes and the sixteen rising edges between fall and rise are those of the two bytes (`bracketed_frame_append`).
Every instruction but the lone byte is frames, register writes and settle waits (`program_framed`); each statement on instructions is an
induction over that shape, and a look at the lone byte. -/

namespace Sys2Proof.Machine

/-! ### One frame -/

theorem frameEventList_of_select {c : Config} (hc : c.hasSelect = true) (m p : Byte) :
    frameEventList c m p = .pin .csn false :: (sendEvents m ++ (sendEvents p ++ [.pin .csn true])) := by
  simp [frameEventList, hc]

theorem frameEventList_of_no_select {c : Config} (hc : c.hasSelect = false) (m p : Byte) :
    frameEventList c m p = sendEvents m ++ sendEvents p := by
  simp [frameEventList, hc]

section
variable {i : Instr} {s : State} {m p : Byte}

theorem exec_of_frame (h : program i s = .ok (frameMicros s.cfg m p)) :
    exec i s = .next (s.sent (p.getLsbD 0) (frameEventList s.cfg m p)) := by
  rw [← eventsOf_frameMicros]
  exact exec_next_iff.mpr ⟨_, h, (perform_frameMicros s m p).symm⟩

/-- One frame and no register write completes with the state otherwise unchanged (R100, R101, R103). -/
theorem completes_of_frame (h : program i s = .ok (frameMicros s.cfg m p)) : Completes i s s (p.getLsbD 0) [frameItem m p] := by
  refine ⟨_, exec_of_frame h, ?_⟩
  rw [← eventsOf_frameMicros]
  exact carries_of_walks (walks_frame s.cfg m p)

end

/-- Settles O15: the program of each is one frame with its marker. -/
theorem framesAreMarkerThenPayload : Obligations.FramesAreMarkerThenPayload := fun _ _ =>
  ⟨exec_of_frame rfl, exec_of_frame rfl, completes_of_frame (m := frameCommand) rfl, completes_of_frame (m := frameData) rfl⟩

/-! ### Waits -/

theorem sendEvents_isPin (b : Byte) : ∀ e ∈ sendEvents b, e.isPin = true := by simp [sendEvents, Event.isPin]

theorem framed_wait {c : Config} {l : List Micro} {f w n : Nat} (h : Framed c l f w) (hn : .wait n ∈ eventsOf l) :
    n = c.settleUs ∧ 1 ≤ w := by
  induction h with
  | nil => exact absurd hn List.not_mem_nil
  | write r v _ ih => exact ih hn
  | frame m p _ _ ih =>
    rw [eventsOf_append] at hn
    obtain hf | hl := List.mem_append.mp hn
    · exact absurd (waits_frameMicros c m p _ hf) (by simp [Event.isPin])
    · exact ih hl
  | settle _ ih =>
    obtain he | hl := List.mem_cons.mp hn
    · exact ⟨Event.wait.inj he, Nat.le_add_left ..⟩
    · exact ⟨(ih hl).1, Nat.le_add_left ..⟩

theorem eq_of_waitsMade_pos {i : Instr} (h : 1 ≤ waitsMade i) : i = .clear ∨ i = .home ∨ ∃ c r d, i = .begin c r d := by
  cases i with
  | clear => exact .inl rfl
  | home => exact .inr (.inl rfl)
  | begin c r d => exact .inr (.inr ⟨c, r, d, rfl⟩)
  | _ => exact absurd h (Nat.not_succ_le_zero 0)

theorem program_wait {i : Instr} {s : State} {l : List Micro} {n : Nat} (h : program i s = .ok l) (hn : .wait n ∈ eventsOf l) :
    n = s.cfg.settleUs ∧ 1 ≤ waitsMade i := by
  cases hi : isLoneByte i with
  | false => exact framed_wait (program_framed hi h) hn
  | true =>
    obtain ⟨b, rfl⟩ := isLoneByte_iff.mp hi
    cases h
    exact absurd (sendEvents_isPin b _ hn) (by simp [Event.isPin])

/-- Settles O42: a wait in a program is a settle wait, and three instructions make one. -/
theorem waitsComeOnlyFromClearAndHome : Obligations.WaitsComeOnlyFromClearAndHome := by
  intro i s t es n h ht hn
  obtain ⟨l, hl, rfl⟩ := exec_next_iff.mp h
  obtain rfl : eventsOf l = es := List.append_cancel_left ((s.perform_trace l).symm.trans ht)
  obtain ⟨hw, hi⟩ := program_wait hl hn
  exact ⟨hw, eq_of_waitsMade_pos hi⟩

/-! ### Events that do not drive the select line -/

theorem sendEvents_drivesSelect (b : Byte) : ∀ e ∈ sendEvents b, e.drivesSelect = false := by
  simp [sendEvents, Event.drivesSelect]

section
variable {e : Event} {es : List Event}

theorem Pins.after_csn (he : e.drivesSelect = false) (q : Pins) : (q.after e).csn = q.csn := by
  cases e with
  | wait n => rfl
  | pin p l =>
    cases p with
    | csn => cases he
    | sck | sda => rfl

theorem ne_select_drive (he : e.drivesSelect = false) (l : Level) : (e == .pin .csn l) = false :=
  beq_false_of_ne fun h => by simp [h, Event.drivesSelect] at he

theorem Pins.afterAll_csn (h : ∀ e ∈ es, e.drivesSelect = false) (q : Pins) : (q.afterAll es).csn = q.csn := by
  induction es generalizing q with
  | nil => rfl
  | cons e es ih =>
    obtain ⟨he, hes⟩ := List.forall_mem_cons.mp h
    rw [Pins.afterAll_cons, ih hes, Pins.after_csn he]

theorem selectFalls_append_of_no_select (h : ∀ e ∈ es, e.drivesSelect = false) (q : Pins) (r : List Event) :
    selectFalls q (es ++ r) = selectFalls (q.afterAll es) r := by
  induction es generalizing q with
  | nil => rfl
  | cons e es ih =>
    obtain ⟨he, hes⟩ := List.forall_mem_cons.mp h
    simp [selectFalls, ne_select_drive he, ih hes]

/-- With the select line low, nothing but a drive of it can break the rule of R102. -/
theorem selectBrackets_cons_of_no_select (he : e.drivesSelect = false) {q : Pins} (hq : q.csn = false) (r : List Event) :
    selectBrackets q (e :: r) = selectBrackets (q.after e) r := by
  cases e with
  | wait n => simp [selectBrackets, hq]
  | pin p l =>
    cases p with
    | csn => cases he
    | sck | sda => simp [selectBrackets, hq]

theorem selectBrackets_append_of_no_select (h : ∀ e ∈ es, e.drivesSelect = false) {q : Pins} (hq : q.csn = false)
    (r : List Event) : selectBrackets q (es ++ r) = selectBrackets (q.afterAll es) r := by
  induction es generalizing q with
  | nil => rfl
  | cons e es ih =>
    obtain ⟨he, hes⟩ := List.forall_mem_cons.mp h
    rw [List.cons_append, selectBrackets_cons_of_no_select he hq, ih hes ((Pins.after_csn he q).trans hq), Pins.afterAll_cons]

/-- Between the drives of the select line the rising edges are counted. -/
theorem bracketsHoldOneFrame_append_of_no_select (h : ∀ e ∈ es, e.drivesSelect = false) (q : Pins) (n : Nat) (r : List Event) :
    bracketsHoldOneFrame q n (es ++ r) = bracketsHoldOneFrame (q.afterAll es) (n + risingEdges q es) r := by
  induction es generalizing q n with
  | nil => rfl
  | cons e es ih =>
    obtain ⟨he, hes⟩ := List.forall_mem_cons.mp h
    simp [bracketsHoldOneFrame, risingEdges, ne_select_drive he, ih hes, Nat.add_assoc]

end

/-! ### Without a select line -/

theorem framed_drivesSelect {c : Config} (hc : c.hasSelect = false) {l : List Micro} {f w : Nat} (h : Framed c l f w) :
    ∀ e ∈ eventsOf l, e.drivesSelect = false := by
  induction h with
  | nil => exact List.forall_mem_nil _
  | write r v _ ih => exact ih
  | frame m p _ _ ih =>
    rw [eventsOf_append, eventsOf_frameMicros, frameEventList_of_no_select hc]
    exact List.forall_mem_append.mpr ⟨List.forall_mem_append.mpr ⟨sendEvents_drivesSelect m, sendEvents_drivesSelect p⟩, ih⟩
  | settle _ ih => exact List.forall_mem_cons.mpr ⟨rfl, ih⟩

theorem program_drivesSelect {i : Instr} {s : State} {l : List Micro} (hc : s.cfg.hasSelect = false)
    (h : program i s = .ok l) : ∀ e ∈ eventsOf l, e.drivesSelect = false := by
  cases hi : isLoneByte i with
  | false => exact framed_drivesSelect hc (program_framed hi h)
  | true =>
    obtain ⟨b, rfl⟩ := isLoneByte_iff.mp hi
    cases h
    exact sendEvents_drivesSelect b

/-- Settles O39: no event of a program drives the select line, and the latch follows the events. -/
theorem noSelectEventWithoutSelectLine : Obligations.NoSelectEventWithoutSelectLine := by
  intro i s t hc h
  obtain ⟨l, hl, rfl⟩ := exec_next_iff.mp h
  have hes := program_drivesSelect hc hl
  have hcsn : (s.perform l).pins.csn = s.pins.csn := by rw [State.perform_pins, Pins.afterAll_csn hes]
  exact ⟨eventsOf l, s.perform_trace l, hes, hcsn, State.portCsN_of_no_select hc, State.portCsN_of_no_select (by simpa using hc)⟩

/-! ### With a select line -/

/-- The pin levels at an idle point (10_state.md R32), `SDA` being at `d`. -/
def idlePinsWith (d : Level) : Pins := ⟨true, d, true⟩

/-- From idle pins the events hold `f` frames, each in one bracket of `CSN`, and `CSN` moves at frame boundaries alone (R102); `n` is the
count of rising edges that `bracketsHoldOneFrame` starts with. -/
structure Bracketed (d : Level) (n : Nat) (es : List Event) (f : Nat) : Prop where
  brackets : selectBrackets (idlePinsWith d) es = true
  between (items : List Item) : (View.mk (idlePinsWith d) [] items).onlyAtBoundary Event.drivesSelect es = true
  oneFrame : bracketsHoldOneFrame (idlePinsWith d) n es = true
  falls : selectFalls (idlePinsWith d) es = f

theorem bracketed_nil (d : Level) (n : Nat) : Bracketed d n [] 0 := ⟨rfl, fun _ => rfl, rfl, rfl⟩

theorem bracketed_wait_cons {d : Level} {n f : Nat} {es : List Event} (k : Nat) (h : Bracketed d n es f) :
    Bracketed d n (.wait k :: es) f := by
  obtain ⟨hb, hv, ho, hf⟩ := h
  exact ⟨hb, fun items => hv (items ++ [.wait k]), ho, (Nat.zero_add _).trans hf⟩

theorem afterAll_sendEvents (q : Pins) (b : Byte) : q.afterAll (sendEvents b) = ⟨true, b.getLsbD 0, q.csn⟩ := rfl

theorem risingEdges_sendEvents {q : Pins} (hq : q.sck = true) (b : Byte) : risingEdges q (sendEvents b) = 8 := by
  rw [← length_sampledBits, sampledBits_sendEvents, hq]
  rfl

theorem bracketsHoldOneFrame_fall (d : Level) (n : Nat) (es : List Event) :
    bracketsHoldOneFrame (idlePinsWith d) n (.pin .csn false :: es) = bracketsHoldOneFrame ⟨true, d, false⟩ 0 es := rfl

/-- A frame in front: `CSN` falls, stays low over the two bytes with their eight rising edges each, and rises with the clock high. -/
theorem bracketed_frame_append {c : Config} (hc : c.hasSelect = true) {d : Level} {m p : Byte} {es : List Event} {f : Nat} (n : Nat)
    (h : Bracketed (p.getLsbD 0) 16 es f) : Bracketed d n (eventsOf (frameMicros c m p) ++ es) (f + 1) := by
  obtain ⟨hb, hv, ho, hf⟩ := h
  have hm := sendEvents_drivesSelect m
  have hp := sendEvents_drivesSelect p
  have he : eventsOf (frameMicros c m p) ++ es =
      .pin .csn false :: (sendEvents m ++ (sendEvents p ++ (.pin .csn true :: es))) := by
    rw [eventsOf_frameMicros, frameEventList_of_select hc]
    simp
  refine ⟨?_, fun items => ?_, ?_, ?_⟩
  · rw [he, selectBrackets, selectBrackets_append_of_no_select hm rfl, afterAll_sendEvents,
      selectBrackets_append_of_no_select hp rfl, afterAll_sendEvents]
    exact hb
  · rw [View.onlyAtBoundary_append, View.select_frameMicros c _ _ m p rfl, View.run_frame c _ _ m p rfl, hc]
    exact hv _
  · rw [he, bracketsHoldOneFrame_fall, bracketsHoldOneFrame_append_of_no_select hm, risingEdges_sendEvents rfl, afterAll_sendEvents,
      bracketsHoldOneFrame_append_of_no_select hp, risingEdges_sendEvents rfl, afterAll_sendEvents]
    exact ho
  · rw [he, selectFalls, selectFalls_append_of_no_select hm, afterAll_sendEvents, selectFalls_append_of_no_select hp,
      afterAll_sendEvents, Nat.add_comm]
    exact congrArg (· + 1) ((Nat.zero_add _).trans hf)

theorem framed_bracketed {c : Config} (hc : c.hasSelect = true) {l : List Micro} {f w : Nat} (h : Framed c l f w) (d : Level)
    (n : Nat) : Bracketed d n (eventsOf l) f := by
  induction h generalizing d n with
  | nil => exact bracketed_nil d n
  | write r v _ ih => exact ih d n
  | frame m p _ _ ih =>
    rw [eventsOf_append]
    exact bracketed_frame_append hc n (ih _ 16)
  | settle _ ih => exact bracketed_wait_cons _ (ih d n)

/-- Settles O37: a program is frames, each in its bracket, and each leaves the pins idle for the next. -/
theorem selectBracketsEachFrame : Obligations.SelectBracketsEachFrame := by
  intro i s t hc hsck hcsn hi h
  obtain ⟨l, hl, rfl⟩ := exec_next_iff.mp h
  have hf := program_framed hi hl
  have hpins : s.pins = idlePinsWith s.sda := by rw [State.pins, hsck, hcsn, idlePinsWith]
  obtain ⟨hb, hv, ho, hn⟩ := framed_bracketed hc hf s.sda 0
  rw [← hpins] at hb hv ho hn
  exact ⟨eventsOf l, s.perform_trace l, hb, hv [], ho, hn, framed_idlePins hf ⟨hsck, hcsn⟩⟩

end Sys2Proof.Machine
end

section
/-! PROOFS of 42_display_commands.md. Each operation is one or more frames, `CLEAR` and `HOME` with a settle wait after it. What one frame
does is known (`exec_of_frame`, `completes_of_frame`); a further frame or wait after it adds its events and nothing else
(`perform_sent_frame`, `perform_sent_settle`), so the whole operation is `State.sent` with the events of its program. What these events
carry is read off the program (`Walks`), and the busy time off the sequencer (O48). -/

namespace Sys2Proof.Machine

/-! ### Decoding by the opcode -/

/-- The opcode byte selects the row, whatever the other bytes are (30_encoding.md R72, R73). -/
theorem decode_of_op {w : CmdWord} {op : Byte} (h : CmdWord.op w = op) :
    decode (.host w) = decodeFields op (CmdWord.operand w) := h ▸ rfl

/-! ### One frame -/

/-- Settles O21: the program is one data frame. -/
theorem writeSendsOneDataFrame : Obligations.WriteSendsOneDataFrame :=
  ⟨fun _ => decode_of_op, fun _ _ => ⟨exec_of_frame rfl, completes_of_frame (m := frameData) rfl⟩⟩

/-- Settles O22: the program is one command frame. -/
theorem rawCommandSendsOneCommandFrame : Obligations.RawCommandSendsOneCommandFrame :=
  ⟨fun _ => decode_of_op, fun _ _ => completes_of_sendCommand rfl⟩

theorem completes_scrollLeft (s : State) :
    Completes .scrollLeft s s ((shiftPayload s.cfg.codes.moveLeft).getLsbD 0) [.cmd (shiftPayload s.cfg.codes.moveLeft)] :=
  completes_of_sendCommand rfl

theorem completes_scrollRight (s : State) :
    Completes .scrollRight s s ((shiftPayload s.cfg.codes.moveRight).getLsbD 0) [.cmd (shiftPayload s.cfg.codes.moveRight)] :=
  completes_of_sendCommand rfl

/-- Settles O19: the program of each is one command frame, whose byte the default constants make 0x18 and 0x1C. -/
theorem scrollsSendTheirShiftCommand : Obligations.ScrollsSendTheirShiftCommand := by
  refine ⟨fun _ => decode_of_op, fun _ => decode_of_op, fun s => ⟨completes_scrollLeft s, completes_scrollRight s, fun hc => ?_⟩⟩
  have hl := completes_scrollLeft s
  have hr := completes_scrollRight s
  rw [hc] at hl hr
  exact ⟨hl, hr⟩

/-! ### The clamped row -/

/-- The byte arithmetic of the clamp does not wrap where there is a line (30_encoding.md R75, R77). -/
theorem toNat_clampRow {row lc : Byte} (h : 1 ≤ lc.toNat) : (clampRow row lc).toNat = min row.toNat (lc.toNat - 1) := by
  have hlc : (lc - 1).toNat = lc.toNat - 1 := BitVec.toNat_sub_of_le h
  simp only [clampRow, BitVec.lt_def, hlc]
  split <;> omega

/-- `ROW_OFFSET` is the list of its four entries (20_memory.md R57). -/
theorem rowOffset_eq_getElem? (r : Byte) : rowOffset r = ([0x00, 0x40, 0x14, 0x54] : List Byte)[r.toNat]? := by
  revert r
  decide

section
variable {col row lc : Byte}

theorem rowOffset_clampRow (h : 1 ≤ lc.toNat) :
    rowOffset (clampRow row lc) = ([0x00, 0x40, 0x14, 0x54] : List Byte)[min row.toNat (lc.toNat - 1)]? := by
  rw [rowOffset_eq_getElem?, toNat_clampRow h]

theorem lineCount_ne_zero (h : 1 ≤ lc.toNat) : lc ≠ 0 := by
  rintro rfl
  exact absurd h (by decide)

theorem ddramAddress_of_offset {o : Byte} (h : 1 ≤ lc.toNat) (ho : rowOffset (clampRow row lc) = some o) :
    ddramAddress col row lc = .ok (col + o) := by
  rw [ddramAddress, if_neg (lineCount_ne_zero h), ho]

theorem ddramAddress_of_no_offset (h : 1 ≤ lc.toNat) (ho : rowOffset (clampRow row lc) = none) :
    ddramAddress col row lc = .error .rowOffsetOutOfTable := by
  rw [ddramAddress, if_neg (lineCount_ne_zero h), ho]

end

section
variable {col row : Byte} {s : State}

theorem program_setCursor_of_address {a : Byte} (h : ddramAddress col row s.lineCount = .ok a) :
    program (.setCursor col row) s = .ok (sendCommandMicros s.cfg (ddramPayload a)) := by
  simp [program, setCursorProgram, h]

theorem program_setCursor_of_refusal {r : Refusal} (h : ddramAddress col row s.lineCount = .error r) :
    program (.setCursor col row) s = .error r := by
  simp [program, setCursorProgram, h]

end

/-- Settles O18: the clamped row picks an entry of the table, and the program is one command frame; past the table there is no program. -/
theorem setCursorAddressesTheClampedRow : Obligations.SetCursorAddressesTheClampedRow := by
  refine ⟨fun _ => decode_of_op, fun col row s hlc => ⟨fun off ho => ?_, fun hrow => ?_⟩⟩
  · rw [← rowOffset_clampRow hlc] at ho
    exact completes_of_sendCommand (program_setCursor_of_address (ddramAddress_of_offset hlc ho))
  · have ho : rowOffset (clampRow row s.lineCount) = none := by
      rw [rowOffset_clampRow hlc]
      exact List.getElem?_eq_none hrow
    rw [exec_eq_runProgram, runProgram_refused_iff]
    exact program_setCursor_of_refusal (ddramAddress_of_no_offset hlc ho)

/-! ### More than one frame -/

/-- A further frame adds its events and leaves its own last bit on the wire. -/
theorem perform_sent_frame (s : State) (last : Level) (es : List Event) (m p : Byte) :
    (s.sent last es).perform (frameMicros s.cfg m p) = s.sent (p.getLsbD 0) (es ++ eventsOf (frameMicros s.cfg m p)) := by
  refine (perform_frameMicros (s.sent last es) m p).trans ?_
  simp [State.sent]

/-- A settle wait holds the pins (60_exceptions.md R168). -/
theorem perform_sent_settle (s : State) (last : Level) (es : List Event) :
    (s.sent last es).perform (settleMicros s.cfg) = s.sent last (es ++ eventsOf (settleMicros s.cfg)) := by
  simp [settleMicros, State.sent, State.emit, eventsOf]

/-- Data frames one after the other: the last bit on the wire is that of the last byte sent. -/
theorem perform_sent_dataFrames (s : State) (p : Byte) (es : List Event) (gs : List Byte) :
    (s.sent (p.getLsbD 0) es).perform (gs.flatMap (sendDataMicros s.cfg)) =
      s.sent ((gs.getLastD p).getLsbD 0) (es ++ eventsOf (gs.flatMap (sendDataMicros s.cfg))) := by
  induction gs generalizing p es with
  | nil => simp [eventsOf]
  | cons g gs ih =>
    rw [List.flatMap_cons, State.perform_append, sendDataMicros, perform_sent_frame, ih, List.getLastD_cons, eventsOf_append,
      List.append_assoc]

theorem walks_dataFrames (c : Config) (gs : List Byte) : Walks c (gs.flatMap (sendDataMicros c)) (gs.map .data) := by
  induction gs with
  | nil => exact walks_nil c
  | cons g gs ih => exact walks_append (walks_sendData c g) ih

section
variable {i : Instr} {s s₁ : State} {l : List Micro} {last : Level} {items : List Item}

/-- A program that leaves `s₁` with its events sent, and sends the items, leaves `s₁` with the events of the items. -/
theorem exec_of_walks (hl : program i s = .ok l) (hs : s.perform l = s₁.sent last (eventsOf l)) (hw : Walks s.cfg l items) :
    exec i s = .next (s₁.sent last (items.flatMap (itemEventList s.cfg))) := by
  rw [← hw.1]
  exact exec_next_iff.mpr ⟨l, hl, hs.symm⟩

theorem completes_of_walks (hl : program i s = .ok l) (hs : s.perform l = s₁.sent last (eventsOf l)) (hw : Walks s.cfg l items) :
    Completes i s s₁ last items :=
  ⟨eventsOf l, exec_next_iff.mpr ⟨l, hl, hs.symm⟩, carries_of_walks hw⟩

end

/-! ### The glyph -/

section
variable (slot g0 g1 g2 g3 g4 g5 g6 g7 : Byte) (s : State)

theorem perform_createChar :
    s.perform (createCharProgram slot g0 g1 g2 g3 g4 g5 g6 g7 s) =
      s.sent (g7.getLsbD 0) (eventsOf (createCharProgram slot g0 g1 g2 g3 g4 g5 g6 g7 s)) := by
  rw [createCharProgram, State.perform_append, sendCommandMicros, perform_frameMicros, eventsOf_append]
  exact perform_sent_dataFrames s _ _ [g0, g1, g2, g3, g4, g5, g6, g7]

theorem walks_createChar :
    Walks s.cfg (createCharProgram slot g0 g1 g2 g3 g4 g5 g6 g7 s)
      (.cmd (cgramPayload slot) :: [g0, g1, g2, g3, g4, g5, g6, g7].map .data) :=
  walks_append (walks_sendCommand s.cfg _) (walks_dataFrames s.cfg _)

end

/-- Only the low three bits of the slot reach the payload (30_encoding.md R76). -/
theorem cgramPayload_congr {slot slot' : Byte} (h : slot' &&& 0x07 = slot &&& 0x07) : cgramPayload slot' = cgramPayload slot := by
  rw [cgramPayload, cgramPayload, h]

/-- Settles O20: one command frame and eight data frames, and the slot enters through its payload alone. -/
theorem createCharSendsSlotAndGlyph : Obligations.CreateCharSendsSlotAndGlyph := by
  refine ⟨fun _ => decode_of_op, fun slot g0 g1 g2 g3 g4 g5 g6 g7 s => ⟨?_, ?_, fun slot' h => ?_⟩⟩
  · exact exec_of_walks rfl (perform_createChar ..) (walks_createChar ..)
  · exact completes_of_walks rfl (perform_createChar ..) (walks_createChar ..)
  · rw [exec_eq_runProgram, exec_eq_runProgram, program, program, createCharProgram, createCharProgram, cgramPayload_congr h]

/-! ### A frame and a settle wait -/

theorem perform_home (s : State) : s.perform (homeProgram s) = s.sent false (eventsOf (homeProgram s)) := by
  rw [homeProgram, State.perform_append, sendCommandMicros, perform_frameMicros, eventsOf_append]
  exact perform_sent_settle s _ _

theorem walks_home (s : State) : Walks s.cfg (homeProgram s) [.cmd 0x02, .wait s.cfg.settleUs] :=
  walks_append (walks_sendCommand s.cfg _) (walks_settle s.cfg)

theorem exec_home (s : State) :
    exec .home s = .next (s.sent false (frameEventList s.cfg 0xF8 0x02 ++ [.wait s.cfg.settleUs])) :=
  exec_of_walks rfl (perform_home s) (walks_home s)

/-- The write of `currentLine` stands between the frame and the wait and adds no event. -/
theorem perform_clear (s : State) :
    s.perform (clearProgram s) = State.sent { s with currentLine := 0 } true (eventsOf (clearProgram s)) := by
  rw [clearProgram, State.perform_append, State.perform_append, sendCommandMicros, perform_frameMicros, eventsOf_append,
    eventsOf_append, eventsOf, eventsOf, List.append_nil]
  exact perform_sent_settle { s with currentLine := 0 } _ _

theorem walks_clear (s : State) : Walks s.cfg (clearProgram s) [.cmd 0x01, .wait s.cfg.settleUs] :=
  walks_append (walks_append (walks_sendCommand s.cfg _) (walks_write .currentLine 0 (walks_nil s.cfg))) (walks_settle s.cfg)

theorem exec_clear (s : State) :
    exec .clear s = .next (State.sent { s with currentLine := 0 } true (frameEventList s.cfg 0xF8 0x01 ++ [.wait s.cfg.settleUs])) :=
  exec_of_walks rfl (perform_clear s) (walks_clear s)

/-- The settle time is at least 2 ms (00_scope.md R6). -/
theorem settleUs_of_wellFormed {c : Config} (h : c.wellFormed = true) : 2000 ≤ c.settleUs := by
  simp only [Config.wellFormed, Bool.and_eq_true, decide_eq_true_eq] at h
  obtain ⟨⟨hsettle, -⟩, -⟩ := h
  exact hsettle

/-- An accepted operation of one frame and one settle wait is busy for the edges of both (70_reset_and_hazards.md R201). -/
theorem accept_busyFor_of_settle {s t : State} {w : CmdWord} {i : Instr} (hs : s.cmdReady = true) (hd : decode (.host w) = .ok i)
    (ht : exec i s = .next t) (hf : framesSent i = 1) (hw : waitsMade i = 1) :
    ∃ u, s.accept w = .next u ∧
      BusyFor u (frameEvents s.cfg * max 1 s.cfg.cyclesPerStep + max 1 (settleEdges s.cfg s.cfg.settleUs)) := by
  obtain ⟨u, hu, hb, -⟩ := sequencerReachesWhatTheOperationGives s t w i hs hd ht
  rw [hf, hw, Nat.one_mul, Nat.one_mul] at hb
  exact ⟨u, hu, hb⟩

/-- Settles O16: the program is a command frame, the write of `currentLine` and the wait; its busy time is that of the sequencer (O48). -/
theorem clearSendsAndSettles : Obligations.ClearSendsAndSettles := by
  refine ⟨fun _ => decode_of_op, fun s => ⟨?_, settleUs_of_wellFormed, fun w hop hs => ?_⟩⟩
  · exact completes_of_walks rfl (perform_clear s) (walks_clear s)
  · exact accept_busyFor_of_settle hs (decode_of_op hop) (exec_clear s) rfl rfl

/-- Settles O17: as `CLEAR`, with no register written. -/
theorem homeSendsAndSettles : Obligations.HomeSendsAndSettles := by
  refine ⟨fun _ => decode_of_op, fun s => ⟨exec_home s, settleUs_of_wellFormed, ?_, fun w hop hs => ?_⟩⟩
  · exact completes_of_walks rfl (perform_home s) (walks_home s)
  · exact accept_busyFor_of_settle hs (decode_of_op hop) (exec_home s) rfl rfl

end Sys2Proof.Machine
end

section
/-! PROOFS of 43_register_ops.md. The ten operations have one shape: write one flag register, then send all of it in a command frame
(R130). `ResendsFlag` states that shape for any register, opcode and update; what one operation does, what a sequence of them does
(an induction on the sequence) and what a pair does are proved from it once, for both registers. -/

namespace Sys2Proof.Machine

/-! ### The common shape -/

/-- `r <- v; SENDCOMMAND(opcode | r)` (43_register_ops.md R130). -/
def resendMicros (c : Config) (r : Reg) (opcode v : Byte) : List Micro := .write r v :: sendCommandMicros c (opcode ||| v)

/-- With the constants `c`, the operation makes of the register `r` what its second part says, and resends it under `opcode` (R130). -/
def ResendsFlag (c : Codes) (r : Reg) (opcode : Byte) (p : Instr × (Byte → Byte)) : Prop :=
  ∀ s : State, s.cfg.codes = c → program p.1 s = .ok (resendMicros s.cfg r opcode (p.2 (s.reg r)))

theorem controlOps_resendsFlag (c : Codes) : ∀ p ∈ controlOps c, ResendsFlag c .controlFlags 0x08 p := by
  simp only [controlOps, List.forall_mem_cons]
  refine ⟨?_, ?_, ?_, ?_, ?_, ?_, List.forall_mem_nil _⟩ <;> (rintro s rfl; rfl)

theorem entryOps_resendsFlag (c : Codes) : ∀ p ∈ entryOps c, ResendsFlag c .entryFlags 0x04 p := by
  simp only [entryOps, List.forall_mem_cons]
  refine ⟨?_, ?_, ?_, ?_, List.forall_mem_nil _⟩ <;> (rintro s rfl; rfl)

/-! ### One operation -/

@[simp] theorem State.reg_sent (s : State) (last : Level) (es : List Event) (r : Reg) : (s.sent last es).reg r = s.reg r := by
  cases r <;> rfl

theorem perform_resendMicros (s : State) (r : Reg) (opcode v : Byte) :
    s.perform (resendMicros s.cfg r opcode v) =
      (s.writeReg r v).sent ((opcode ||| v).getLsbD 0) (eventsOf (resendMicros s.cfg r opcode v)) := by
  have h := perform_frameMicros (s.writeReg r v) frameCommand (opcode ||| v)
  rw [State.writeReg_cfg] at h
  exact h

theorem reg_perform_resendMicros (s : State) (r r' : Reg) (opcode v : Byte) :
    (s.perform (resendMicros s.cfg r opcode v)).reg r' = if r = r' then v else s.reg r' := by
  rw [perform_resendMicros, State.reg_sent, State.reg_writeReg]

theorem walks_resendMicros (c : Config) (r : Reg) (opcode v : Byte) : Walks c (resendMicros c r opcode v) [.cmd (opcode ||| v)] :=
  walks_write r v (walks_sendCommand c _)

/-- One flag operation completes with its register updated and one command frame (R130). -/
theorem ResendsFlag.completes {s : State} {r : Reg} {opcode : Byte} {p : Instr × (Byte → Byte)}
    (h : ResendsFlag s.cfg.codes r opcode p) :
    Completes p.1 s (s.writeReg r (p.2 (s.reg r))) ((opcode ||| p.2 (s.reg r)).getLsbD 0) [.cmd (opcode ||| p.2 (s.reg r))] :=
  completes_of_walks (h s rfl) (perform_resendMicros ..) (walks_resendMicros ..)

/-- Settles O24: the opcode byte decodes, and each of the six has the common shape. -/
theorem controlOperationsChangeOneBitAndResend : Obligations.ControlOperationsChangeOneBitAndResend := by
  refine ⟨fun _ => ⟨?_, ?_, ?_, ?_, ?_, ?_⟩, fun s p hp => (controlOps_resendsFlag s.cfg.codes p hp).completes⟩
  all_goals exact decode_of_op

/-- Settles O25: as for the six, with the register and opcode of the four. -/
theorem entryOperationsChangeOneBitAndResend : Obligations.EntryOperationsChangeOneBitAndResend := by
  refine ⟨fun _ => ⟨?_, ?_, ?_, ?_⟩, fun s p hp => (entryOps_resendsFlag s.cfg.codes p hp).completes⟩
  all_goals exact decode_of_op

/-! ### A sequence of operations -/

theorem execAll_cons_of_next {i : Instr} {s t : State} (h : exec i s = .next t) (is : List Instr) :
    execAll (i :: is) s = execAll is t := by
  rw [execAll, h]

/-- The register after a sequence of operations. -/
def foldFlag (ops : List (Instr × (Byte → Byte))) (v : Byte) : Byte := ops.foldl (fun r p => p.2 r) v

/-- The register as it stands after each operation of a sequence. -/
def flagHistory (ops : List (Instr × (Byte → Byte))) (v : Byte) : List Byte := (ops.scanl (fun r p => p.2 r) v).tail

theorem flagHistory_cons (p : Instr × (Byte → Byte)) (ops : List (Instr × (Byte → Byte))) (v : Byte) :
    flagHistory (p :: ops) v = p.2 v :: flagHistory ops (p.2 v) := by
  cases ops <;> simp [flagHistory]

/-- A sequence of operations on one register runs as one list of statements, which sends the register after each operation and
leaves the register the fold of their updates (R141). -/
theorem execAll_of_resendsFlag {c : Codes} {r : Reg} {opcode : Byte} {ops : List (Instr × (Byte → Byte))}
    (h : ∀ p ∈ ops, ResendsFlag c r opcode p) {s : State} (hs : s.cfg.codes = c) :
    ∃ l, execAll (ops.map Prod.fst) s = .next (s.perform l) ∧
      Walks s.cfg l ((flagHistory ops (s.reg r)).map (fun v => .cmd (opcode ||| v))) ∧
      ∀ r', (s.perform l).reg r' = if r = r' then foldFlag ops (s.reg r) else s.reg r' := by
  induction ops generalizing s with
  | nil =>
    refine ⟨[], rfl, walks_nil s.cfg, fun r' => ?_⟩
    split
    · next hr => exact hr ▸ rfl
    · rfl
  | cons p ops ih =>
    obtain ⟨hp, hops⟩ := List.forall_mem_cons.mp h
    obtain ⟨l, hexec, hwalks, hreg⟩ := ih hops (s := s.perform (resendMicros s.cfg r opcode (p.2 (s.reg r)))) (by simpa using hs)
    simp only [reg_perform_resendMicros, if_true, State.perform_cfg] at hwalks hreg
    refine ⟨resendMicros s.cfg r opcode (p.2 (s.reg r)) ++ l, ?_, ?_, fun r' => ?_⟩
    · rw [List.map_cons, execAll_cons_of_next (exec_next_iff.mpr ⟨_, hp s hs, rfl⟩), hexec, State.perform_append]
    · rw [flagHistory_cons]
      exact walks_append (walks_resendMicros ..) hwalks
    · rw [State.perform_append, hreg]
      split <;> rfl

/-- What a trace shows of such a sequence (R141). -/
theorem execAll_trace_of_resendsFlag {s : State} {r : Reg} {opcode : Byte} {ops : List (Instr × (Byte → Byte))}
    (h : ∀ p ∈ ops, ResendsFlag s.cfg.codes r opcode p) :
    ∃ t es, execAll (ops.map Prod.fst) s = .next t ∧ t.trace = s.trace ++ es ∧
      (s.sck = true → frameView s.pins es = (flagHistory ops (s.reg r)).map (fun v => .cmd (opcode ||| v))) ∧
      ∀ r', t.reg r' = if r = r' then foldFlag ops (s.reg r) else s.reg r' := by
  obtain ⟨l, hexec, hwalks, hreg⟩ := execAll_of_resendsFlag h rfl
  obtain ⟨-, -, hview⟩ := carries_of_walks hwalks
  refine ⟨_, eventsOf l, hexec, s.perform_trace l, fun hs => ?_, hreg⟩
  obtain ⟨hitems, -⟩ := hview hs
  exact hitems

/-! ### The last call for a bit wins -/

/-- The operation sets bit `k` if it is `on`, clears it if it is `off`, and else keeps it. -/
def DecidesBit (k : Nat) (on off : Instr) (p : Instr × (Byte → Byte)) : Prop :=
  ∀ r : Byte, (p.2 r).getLsbD k = if p.1 = on then true else if p.1 = off then false else r.getLsbD k

theorem getLsbD_foldFlag {k : Nat} {on off : Instr} {ops : List (Instr × (Byte → Byte))} (h : ∀ p ∈ ops, DecidesBit k on off p)
    (v : Byte) : (foldFlag ops v).getLsbD k = lastSetting on off (v.getLsbD k) (ops.map Prod.fst) := by
  induction ops generalizing v with
  | nil => rfl
  | cons p ops ih =>
    obtain ⟨hp, hops⟩ := List.forall_mem_cons.mp h
    refine (ih hops (p.2 v)).trans ?_
    rw [hp v]
    rfl

/-- The default masks of `controlFlags` are three different single bits, each with its own pair of operations. -/
theorem controlOps_decidesBit :
    (∀ p ∈ controlOps defaultCodes, DecidesBit 2 .display .noDisplay p) ∧
      (∀ p ∈ controlOps defaultCodes, DecidesBit 1 .cursor .noCursor p) ∧
      ∀ p ∈ controlOps defaultCodes, DecidesBit 0 .blink .noBlink p := by
  refine ⟨?_, ?_, ?_⟩ <;> simp [controlOps, defaultCodes, DecidesBit]

/-- The default masks of `entryFlags` are two different single bits, each with its own pair of operations. -/
theorem entryOps_decidesBit :
    (∀ p ∈ entryOps defaultCodes, DecidesBit 1 .ltr .rtl p) ∧
      ∀ p ∈ entryOps defaultCodes, DecidesBit 0 .autoscroll .noAutoscroll p := by
  constructor <;> simp [entryOps, defaultCodes, DecidesBit]

/-- Settles O26: the fold and the frames by induction on the sequence, each bit by the masks of the default constants. -/
theorem controlSequencesAccumulate : Obligations.ControlSequencesAccumulate := by
  intro s ops hops
  obtain ⟨t, es, hexec, htrace, hview, hreg⟩ :=
    execAll_trace_of_resendsFlag fun p hp => controlOps_resendsFlag s.cfg.codes p (hops p hp)
  have hflags : t.controlFlags = foldFlag ops s.controlFlags := hreg .controlFlags
  refine ⟨t, es, hexec, htrace, hflags, hview, fun hc => ?_⟩
  rw [hc] at hops
  rw [hflags]
  obtain ⟨hdisplay, hcursor, hblink⟩ := controlOps_decidesBit
  exact ⟨getLsbD_foldFlag (fun p hp => hdisplay p (hops p hp)) _, getLsbD_foldFlag (fun p hp => hcursor p (hops p hp)) _,
    getLsbD_foldFlag (fun p hp => hblink p (hops p hp)) _⟩

/-- Settles O27: as for the six, with the register and opcode of the four. -/
theorem entrySequencesAccumulate : Obligations.EntrySequencesAccumulate := by
  intro s ops hops
  obtain ⟨t, es, hexec, htrace, hview, hreg⟩ :=
    execAll_trace_of_resendsFlag fun p hp => entryOps_resendsFlag s.cfg.codes p (hops p hp)
  have hflags : t.entryFlags = foldFlag ops s.entryFlags := hreg .entryFlags
  refine ⟨t, es, hexec, htrace, hflags, hview, fun hc => ?_⟩
  rw [hc] at hops
  rw [hflags]
  obtain ⟨hdirection, hshift⟩ := entryOps_decidesBit
  exact ⟨getLsbD_foldFlag (fun p hp => hdirection p (hops p hp)) _, getLsbD_foldFlag (fun p hp => hshift p (hops p hp)) _⟩

/-! ### A set operation and its clear partner -/

theorem flagPairs_resendsFlag (c : Codes) : ∀ p ∈ flagPairs c, ∃ opcode,
    ResendsFlag c p.2.2.1 opcode (p.1, fun r => r ||| p.2.2.2) ∧ ResendsFlag c p.2.2.1 opcode (p.2.1, fun r => r &&& ~~~p.2.2.2) := by
  simp only [flagPairs, List.forall_mem_cons]
  refine ⟨⟨0x08, ?_⟩, ⟨0x08, ?_⟩, ⟨0x08, ?_⟩, ⟨0x04, ?_⟩, ⟨0x04, ?_⟩, List.forall_mem_nil _⟩
  all_goals constructor <;> (rintro s rfl; rfl)

theorem clear_after_set (r m : Byte) : (r ||| m) &&& ~~~m = r &&& ~~~m := by
  rw [BitVec.and_or_distrib_right, BitVec.and_not_self, BitVec.ofNat_eq_ofNat, BitVec.or_zero]

theorem set_after_clear (r m : Byte) : r &&& ~~~m ||| m = r ||| m := by
  ext k hk
  simp only [BitVec.getElem_and, BitVec.getElem_or, BitVec.getElem_not]
  cases r[k] <;> cases m[k] <;> rfl

theorem clear_eq_self_iff (r m : Byte) : r &&& ~~~m = r ↔ r &&& m = 0 := by
  rw [BitVec.eq_of_getElem_eq_iff, BitVec.eq_of_getElem_eq_iff]
  refine forall₂_congr fun k hk => ?_
  simp only [BitVec.getElem_and, BitVec.getElem_not, BitVec.ofNat_eq_ofNat, BitVec.getElem_zero]
  cases r[k] <;> cases m[k] <;> decide

/-- Two operations on one register: the register is updated twice, no other is written, and two command frames go out. -/
theorem execAll_pair_of_resendsFlag {s : State} {r : Reg} {opcode : Byte} {p q : Instr × (Byte → Byte)}
    (hp : ResendsFlag s.cfg.codes r opcode p) (hq : ResendsFlag s.cfg.codes r opcode q) :
    ∃ t es, execAll [p.1, q.1] s = .next t ∧ t.trace = s.trace ++ es ∧ t.reg r = q.2 (p.2 (s.reg r)) ∧
      (∀ r', r' ≠ r → t.reg r' = s.reg r') ∧ (s.sck = true → ∃ x y, frameView s.pins es = [.cmd x, .cmd y]) := by
  have hops : ∀ o ∈ [p, q], ResendsFlag s.cfg.codes r opcode o :=
    List.forall_mem_cons.mpr ⟨hp, List.forall_mem_singleton.mpr hq⟩
  obtain ⟨t, es, hexec, htrace, hview, hreg⟩ := execAll_trace_of_resendsFlag hops
  exact ⟨t, es, hexec, htrace, (hreg r).trans (if_pos rfl), fun r' hr => (hreg r').trans (if_neg hr.symm),
    fun hs => ⟨_, _, hview hs⟩⟩

/-- Settles O28: the two updates one after the other, in either order, are the later one. -/
theorem pairedInverseCallsLeaveTheBitAsTheLastSays : Obligations.PairedInverseCallsLeaveTheBitAsTheLastSays := by
  intro s p hp
  obtain ⟨opcode, hset, hclear⟩ := flagPairs_resendsFlag s.cfg.codes p hp
  constructor
  · obtain ⟨t, es, hexec, htrace, hreg, hframe, hview⟩ := execAll_pair_of_resendsFlag hset hclear
    replace hreg := hreg.trans (clear_after_set ..)
    refine ⟨t, es, hexec, htrace, hreg, ?_, hframe, hview⟩
    rw [hreg, clear_eq_self_iff]
  · obtain ⟨t, es, hexec, htrace, hreg, hframe, hview⟩ := execAll_pair_of_resendsFlag hclear hset
    exact ⟨t, es, hexec, htrace, hreg.trans (set_after_clear ..), hframe, hview⟩

end Sys2Proof.Machine
end

section
/-! PROOFS of 44_begin.md. The program of `BEGIN` is known by its register writes (`beginProgram_ok`), its items (`walks_begin`) and its
last frame, and these three fix the state it leaves: the registers by the last write to each (`reg_perform_eq`), the trace by the items,
the pins by the last frame (`pins_of_last_frame`). A second `BEGIN` is the first from another state (O30). What the other instructions
leave in the registers is their listed write or nothing (`exec_reg`). -/

namespace Sys2Proof.Machine

/-! ### The state after a program -/

/-- The value of register `r` after the writes `ws`, from the value `v`. -/
def regAfter (r : Reg) (ws : List (Reg × Byte)) (v : Byte) : Byte := ws.foldl (fun v w => if w.1 = r then w.2 else v) v

/-- A register holds what the program wrote to it last. -/
theorem reg_perform_eq (s : State) (l : List Micro) (r : Reg) : (s.perform l).reg r = regAfter r (writesOf l) (s.reg r) := by
  induction l generalizing s with
  | nil => rfl
  | cons m l ih =>
    rw [State.perform_cons, ih]
    cases m with
    | write r' v => rw [State.micro_write, State.reg_writeReg]; rfl
    | emit e => rw [State.micro_emit, State.reg_emit]; rfl

/-- A program that ends in a frame leaves the clock high, the last bit of the frame on the wire, and the select line deasserted if there
is one, else as it was (41_frame_transmitter.md R100, R102). -/
theorem pins_of_last_frame {i : Instr} {s : State} {l a : List Micro} {m p : Byte} (hl : program i s = .ok l)
    (ha : l = a ++ frameMicros s.cfg m p) :
    (s.perform l).pins = ⟨true, p.getLsbD 0, if s.cfg.hasSelect then true else s.csn⟩ := by
  have hframe : (s.perform l).pins = ⟨true, p.getLsbD 0, if s.cfg.hasSelect then true else (s.perform a).csn⟩ := by
    rw [ha, State.perform_append, State.perform_pins, afterAll_frameMicros]
    rfl
  cases hc : s.cfg.hasSelect with
  | true => simpa [hc] using hframe
  | false =>
    have hcsn : (s.perform l).pins.csn = s.pins.csn := by
      rw [State.perform_pins, Pins.afterAll_csn (program_drivesSelect hc hl)]
    rw [hframe] at hcsn ⊢
    exact congrArg (Pins.mk true _) hcsn

/-- A state that agrees with `s` in all but the pins and the trace is known by these two. -/
theorem State.eq_sent {s t : State} {last : Level} {es : List Event} (hcfg : t.cfg = s.cfg) (hreg : ∀ r, t.reg r = s.reg r)
    (hseq : t.seq = s.seq) (hhost : t.host = s.host) (hinner : t.inner = s.inner)
    (hpins : t.pins = ⟨true, last, if s.cfg.hasSelect then true else s.csn⟩) (htrace : t.trace = s.trace ++ es) :
    t = s.sent last es := by
  have hfn : t.functionFlags = s.functionFlags := hreg .functionFlags
  have hct : t.controlFlags = s.controlFlags := hreg .controlFlags
  have hen : t.entryFlags = s.entryFlags := hreg .entryFlags
  have hlc : t.lineCount = s.lineCount := hreg .lineCount
  have hcl : t.currentLine = s.currentLine := hreg .currentLine
  obtain ⟨hsck, hsda, hcsn⟩ := Pins.mk.inj hpins
  cases t
  simp_all [State.sent]

/-! ### `BEGIN` -/

/-- `s` with the five registers as `BEGIN` loads them (44_begin.md R150, R151). -/
def State.begun (s : State) (rows dotSize : Byte) : State :=
  { s with
    functionFlags := s.functionFlags ||| requestedBits s.cfg.codes rows dotSize
    controlFlags := s.cfg.codes.ctlDisplayOn
    entryFlags := s.cfg.codes.entLeft
    lineCount := rows
    currentLine := 0 }

/-- What `BEGIN` sends (44_begin.md R150). -/
def beginItems (s : State) (rows dotSize : Byte) : List Item :=
  [.cmd 0x01, .wait s.cfg.settleUs, .cmd 0x02, .wait s.cfg.settleUs,
   .cmd (s.cfg.codes.functionSet ||| (s.functionFlags ||| requestedBits s.cfg.codes rows dotSize)),
   .cmd (0x04 ||| s.cfg.codes.entLeft), .cmd 0x80, .cmd (0x08 ||| s.cfg.codes.ctlDisplayOn), .cmd 0x80]

section
variable {rows dotSize : Byte} {s : State}

/-- A row count is 0, 1 or more. -/
theorem eq_one_of_not_gt (h0 : rows ≠ 0) (h1 : ¬ rows > 1) : rows = 1 := by bv_omega

/-- With rows, the second condition of R150 is that of `requestedBits`. -/
theorem beginFunctionFlags_eq (c : Config) (f : Byte) (h : rows ≠ 0) :
    beginFunctionFlags c f rows dotSize = f ||| requestedBits c.codes rows dotSize := by
  by_cases h1 : rows > 1
  · have ht : 1 < rows.toNat := h1
    rw [beginFunctionFlags, requestedBits, if_pos h1, if_pos ht, setBits]
  · obtain rfl := eq_one_of_not_gt h h1
    by_cases hd : dotSize = 0#8
    · simp [beginFunctionFlags, requestedBits, hd]
    · simp [beginFunctionFlags, requestedBits, hd, setBits]

theorem regAfter_beginWrites (h : rows ≠ 0) (r : Reg) :
    regAfter r (beginWrites s rows dotSize) (s.reg r) = (s.begun rows dotSize).reg r := by
  cases r with
  | functionFlags =>
    refine Eq.trans ?_ (beginFunctionFlags_eq s.cfg s.functionFlags h)
    rw [beginWrites, beginFunctionFlags]
    by_cases h1 : rows > 1
    · have hne : rows ≠ 1 := by rintro rfl; exact absurd h1 (by decide)
      rw [if_pos h1, if_pos h1, if_neg (hne ·.2)]
      rfl
    · rw [if_neg h1, if_neg h1]
      split <;> rfl
  | controlFlags | entryFlags | lineCount | currentLine =>
    rw [beginWrites]
    split_ifs <;> rfl

variable {l : List Micro}

theorem begin_last_frame (h : beginProgram rows dotSize s = .ok l) : ∃ a, l = a ++ frameMicros s.cfg frameCommand (ddramPayload 0) := by
  unfold beginProgram at h
  split at h
  · cases h
  · cases h
    exact ⟨_, rfl⟩

theorem perform_begin (h : beginProgram rows dotSize s = .ok l) :
    s.perform l = (s.begun rows dotSize).sent false (eventsOf l) := by
  obtain ⟨hrows, hw⟩ := beginProgram_ok h
  obtain ⟨a, ha⟩ := begin_last_frame h
  refine State.eq_sent (s.perform_cfg l) (fun r => ?_) (s.perform_seq l) (s.perform_host l) (s.perform_inner l)
    (pins_of_last_frame (i := .begin 0 rows dotSize) h ha) (s.perform_trace l)
  rw [reg_perform_eq, hw, regAfter_beginWrites hrows]

theorem walks_begin (h : beginProgram rows dotSize s = .ok l) : Walks s.cfg l (beginItems s rows dotSize) := by
  obtain ⟨hrows, -⟩ := beginProgram_ok h
  rw [beginItems, ← beginFunctionFlags_eq s.cfg s.functionFlags hrows]
  unfold beginProgram at h
  split at h
  · cases h
  · cases h
    have c := walks_sendCommand s.cfg
    have w (P : Prop) [Decidable P] (r : Reg) (v : Byte) : Walks s.cfg (if P then [.write r v] else []) [] := by
      split <;> exact walks_nil s.cfg
    exact walks_append (walks_append (walks_append (walks_append (walks_append (walks_append (walks_append
      (walks_append (walks_append (w _ _ _) (walks_write _ _ (walks_write _ _ (walks_nil _)))) (w _ _ _))
      (walks_clear s)) (walks_home s)) (c _)) (walks_write _ _ (c _))) (c _)) (walks_write _ _ (c _))) (c _)

theorem completes_begin (cols : Byte) (h : rows ≠ 0) :
    Completes (.begin cols rows dotSize) s (s.begun rows dotSize) false (beginItems s rows dotSize) :=
  have hl : beginProgram rows dotSize s = .ok _ := if_neg h
  completes_of_walks hl (perform_begin hl) (walks_begin hl)

theorem exec_begin_of_no_rows (cols : Byte) (h : rows = 0) : exec (.begin cols rows dotSize) s = .refused .lineCountZero := by
  rw [exec_eq_runProgram, runProgram_refused_iff]
  exact if_pos h

theorem exec_begin (cols : Byte) (h : rows ≠ 0) :
    ∃ es, exec (.begin cols rows dotSize) s = .next ((s.begun rows dotSize).sent false es) := by
  obtain ⟨es, he, -⟩ := completes_begin cols h
  exact ⟨es, he⟩

end

/-- Settles O29: without rows there is no program; with rows its writes, its items and its last frame are known. -/
theorem beginInitializesTheBlock : Obligations.BeginInitializesTheBlock :=
  ⟨fun _ => decode_of_op, fun cols _ _ _ => ⟨exec_begin_of_no_rows cols, completes_begin cols⟩⟩

/-- Settles O30: the second `BEGIN` adds to the register as the first left it. -/
theorem secondBeginKeepsFunctionBits : Obligations.SecondBeginKeepsFunctionBits := by
  intro c₁ r₁ d₁ c₂ r₂ d₂ s h₁ h₂
  obtain ⟨es₁, he₁⟩ := exec_begin (s := s) (dotSize := d₁) c₁ h₁
  obtain ⟨es₂, he₂⟩ := exec_begin (s := (s.begun r₁ d₁).sent false es₁) (dotSize := d₂) c₂ h₂
  exact ⟨_, (execAll_cons_of_next he₁ _).trans (execAll_cons_of_next he₂ _), rfl, rfl⟩

/-! ### The values a register takes -/

/-- The values R155 allows in a register after instruction `i` in state `s`. -/
def AllowedValue (i : Instr) (s : State) : Reg → Byte → Prop
  | .functionFlags, v => v = s.functionFlags ∨
      ∃ cols rows dotSize, i = .begin cols rows dotSize ∧ v = s.functionFlags ||| requestedBits s.cfg.codes rows dotSize
  | .controlFlags, v => v = s.controlFlags ∨ (∃ p ∈ controlOps s.cfg.codes, i = p.1 ∧ v = p.2 s.controlFlags) ∨
      ∃ cols rows dotSize, i = .begin cols rows dotSize ∧ v = s.cfg.codes.ctlDisplayOn
  | .entryFlags, v => v = s.entryFlags ∨ (∃ p ∈ entryOps s.cfg.codes, i = p.1 ∧ v = p.2 s.entryFlags) ∨
      ∃ cols rows dotSize, i = .begin cols rows dotSize ∧ v = s.cfg.codes.entLeft
  | .lineCount, v => v = s.lineCount ∨ ∃ cols dotSize, i = .begin cols v dotSize
  | .currentLine, v => v = s.currentLine ∨ v = 0

theorem allowedValue_unchanged (i : Instr) (s : State) (r : Reg) : AllowedValue i s r (s.reg r) := by
  cases r <;> exact .inl rfl

theorem allowedValue_begun (cols rows dotSize : Byte) (s : State) (r : Reg) :
    AllowedValue (.begin cols rows dotSize) s r ((s.begun rows dotSize).reg r) := by
  cases r with
  | functionFlags => exact .inr ⟨cols, rows, dotSize, rfl, rfl⟩
  | controlFlags | entryFlags => exact .inr (.inr ⟨cols, rows, dotSize, rfl, rfl⟩)
  | lineCount => exact .inr ⟨cols, dotSize, rfl⟩
  | currentLine => exact .inr rfl

theorem exec_allowedValue {i : Instr} {s t : State} (h : exec i s = .next t) (r : Reg) : AllowedValue i s r (t.reg r) := by
  have single {r' : Reg} {v : Byte} (hw : programWrites s i = [(r', v)]) (hv : AllowedValue i s r' v) : AllowedValue i s r (t.reg r) :=
    exec_reg h (by rw [hw]; exact List.forall_mem_singleton.mpr hv) (allowedValue_unchanged i s) r
  cases i with
  | begin cols rows dotSize =>
    obtain ⟨es, he⟩ := exec_begin (s := s) (dotSize := dotSize) cols (exec_begin_rows h)
    cases h.symm.trans he
    rw [State.reg_sent]
    exact allowedValue_begun cols rows dotSize s r
  | clear => exact single rfl (.inr rfl)
  | display | noDisplay | cursor | noCursor | blink | noBlink =>
    exact single rfl (.inr (.inl (by simp [controlOps, setBits, clearBits])))
  | ltr | rtl | autoscroll | noAutoscroll =>
    exact single rfl (.inr (.inl (by simp [entryOps, setBits, clearBits])))
  | _ => exact exec_reg h (List.forall_mem_nil _) (allowedValue_unchanged _ s) r

/-- Settles O34: register by register. -/
theorem onlyBeginLoadsAHostValue : Obligations.OnlyBeginLoadsAHostValue := fun _ _ _ h =>
  have hv := exec_allowedValue h
  ⟨hv .functionFlags, hv .controlFlags, hv .entryFlags, hv .lineCount, hv .currentLine⟩

/-! ### The host's surface -/

/-- The command port's words are those of the nineteen host rows (30_encoding.md R72, R78). -/
theorem decode_host_format {w : CmdWord} {i : Instr} (h : decode (.host w) = .ok i) : i.row.format = .host := by
  by_cases hop : 1 ≤ (CmdWord.op w).toNat ∧ (CmdWord.op w).toNat ≤ 0x13
  · obtain ⟨j, hj, hf, -⟩ := decodeFields_assigned (CmdWord.operand w) hop
    cases h.symm.trans hj
    exact hf
  · cases h.symm.trans (decodeFields_unassigned (CmdWord.operand w) hop)

theorem clockEdge_inner {s t : State} {p : PortIn} (hs : s.inner = none) (h : s.clockEdge p = .next t) : t.inner = none := by
  obtain rfl | rfl | ⟨-, rfl⟩ | ⟨-, ha⟩ := clockEdge_next h
  · exact s.resetBlock_inner
  · exact s.tick_inner.trans hs
  · exact hs
  · obtain ⟨l, rfl, -⟩ := State.accept_next ha
    exact hs

theorem exec_inner {i : Instr} {s t : State} (h : exec i s = .next t) : t.inner = s.inner := by
  obtain ⟨l, -, rfl⟩ := exec_next_iff.mp h
  exact s.perform_inner l

/-- Settles O11: with no inner request the last case of `step_next` is out, and none of the others places one. -/
theorem hostSurfaceIsTheNineteenOperations : Obligations.HostSurfaceIsTheNineteenOperations := by
  refine ⟨fun _ _ => decode_host_format, fun s t hs h => ?_⟩
  obtain rfl | ⟨p, rest, -, hh, hp⟩ | ⟨w, rest, i, -, hh, -, hd, hi⟩ | ⟨q, i, hq, -⟩ := step_next h
  · exact ⟨s.tick_inner.trans hs, .inl rfl⟩
  · exact ⟨clockEdge_inner (s := { s with host := rest }) hs hp, .inr (.inl ⟨p, rest, hh, hp⟩)⟩
  · exact ⟨(exec_inner hi).trans hs, .inr (.inr ⟨w, rest, i, hh, hd, decode_host_format hd, hi⟩)⟩
  · cases hs.symm.trans hq

end Sys2Proof.Machine
end

section
/-! PROOFS of 60_exceptions.md. What is refused is what has no program, and only `BEGIN` and `SETCURSOR` can have none, by one condition
each on operands and state (`program_error_iff`); so a completing instruction is one that meets neither (O31, O32). The sequencer is
known by the events it has left: an edge takes at most the first of them into the trace (`State.tick_trace`), and their edges are the
busy time, which is finite from every state (`exists_busyFor`). -/

namespace Sys2Proof.Machine

/-! ### Refusals -/

theorem exec_refused_iff {i : Instr} {s : State} {r : Refusal} : exec i s = .refused r ↔ program i s = .error r := by
  rw [exec_eq_runProgram, runProgram_refused_iff]

/-- The model has no fault: an instruction that is not refused completes (60_exceptions.md R160, R171). -/
theorem exec_completes_of_not_refused {i : Instr} {s : State} (h : ∀ r, exec i s ≠ .refused r) : ∃ t, exec i s = .next t := by
  cases hl : program i s with
  | error r => exact absurd (exec_refused_iff.mpr hl) (h r)
  | ok l => exact ⟨_, exec_next_iff.mpr ⟨l, hl, rfl⟩⟩

theorem beginProgram_error_iff {rows dotSize : Byte} {s : State} {r : Refusal} :
    beginProgram rows dotSize s = .error r ↔ rows = 0 ∧ r = .lineCountZero := by
  unfold beginProgram
  split
  · next h => simp [h, eq_comm]
  · next h => exact ⟨nofun, fun hr => absurd hr.1 h⟩

/-- The table of 20_memory.md R57 ends at row 3. -/
theorem rowOffset_clampRow_eq_none_iff {row lc : Byte} (h : 1 ≤ lc.toNat) :
    rowOffset (clampRow row lc) = none ↔ 3 < min row.toNat (lc.toNat - 1) := by
  rw [rowOffset_clampRow h, List.getElem?_eq_none_iff]
  rfl

theorem ddramAddress_error_iff {col row lc : Byte} {r : Refusal} :
    ddramAddress col row lc = .error r ↔
      (lc = 0 ∧ r = .lineCountZero) ∨
      (1 ≤ lc.toNat ∧ 3 < min row.toNat (lc.toNat - 1) ∧ r = .rowOffsetOutOfTable) := by
  by_cases h0 : lc = 0#8
  · subst h0
    simp [ddramAddress, eq_comm]
  · have h1 : 1 ≤ lc.toNat := by bv_omega
    rw [← rowOffset_clampRow_eq_none_iff h1]
    cases ho : rowOffset (clampRow row lc) with
    | none => simp [ddramAddress_of_no_offset h1 ho, h0, h1, @eq_comm _ r]
    | some o => simp [ddramAddress_of_offset h1 ho, h0]

theorem setCursorProgram_error_iff {col row : Byte} {s : State} {r : Refusal} :
    setCursorProgram col row s = .error r ↔ ddramAddress col row s.lineCount = .error r := by
  unfold setCursorProgram
  split
  · next h => simp [h]
  · next h => simp [h]

/-- The two instructions that can lack a program, and when they do (44_begin.md R152, 30_encoding.md R77, 42_display_commands.md R112). -/
theorem program_error_iff {i : Instr} {s : State} {r : Refusal} :
    program i s = .error r ↔
      (∃ cols dotSize, i = .begin cols 0 dotSize ∧ r = .lineCountZero) ∨
      (∃ col row, i = .setCursor col row ∧ s.lineCount = 0 ∧ r = .lineCountZero) ∨
      (∃ col row, i = .setCursor col row ∧ 1 ≤ s.lineCount.toNat ∧
        3 < min row.toNat (s.lineCount.toNat - 1) ∧ r = .rowOffsetOutOfTable) := by
  cases i with
  | begin cols rows dotSize =>
    rw [program, beginProgram_error_iff]
    simp
  | setCursor col row =>
    rw [program, setCursorProgram_error_iff, ddramAddress_error_iff]
    simp
  | _ => simp [program]

/-- Settles O31: a refusal is a missing program, and nothing else keeps an instruction from completing. -/
theorem refusalsAreExactlyTheListed : Obligations.RefusalsAreExactlyTheListed := fun _ _ =>
  ⟨fun _ => exec_refused_iff.trans program_error_iff, exec_completes_of_not_refused⟩

/-- Settles O32: each of the three refusals needs `rows = 0`, no line, or a clamped row above 3, which takes more than four lines. -/
theorem legalInstructionsComplete : Obligations.LegalInstructionsComplete := by
  intro i s hi hlo hhi
  refine exec_completes_of_not_refused fun r hr => ?_
  obtain ⟨cols, dotSize, rfl, -⟩ | ⟨col, row, -, hlc, -⟩ | ⟨col, row, -, -, hrow, -⟩ := program_error_iff.mp (exec_refused_iff.mp hr)
  · cases hi
  · exact lineCount_ne_zero hlo hlc
  · omega

/-! ### Events of a sequencer edge -/

theorem stepEvent_trace (l : List Micro) (s : State) : (stepEvent l s).2.trace = s.trace ++ (eventsOf l).head?.toList := by
  induction l generalizing s with
  | nil => simp [stepEvent, eventsOf]
  | cons m l ih =>
    cases m with
    | write r v => simp [stepEvent, eventsOf, ih]
    | emit e => simp [stepEvent, eventsOf]

/-- No event is done on the way to the next one: what is done at the end of an operation are register writes. -/
@[simp] theorem State.resume_trace (s : State) (w : CmdWord) (l : List Micro) : (s.resume w l).trace = s.trace := by
  unfold State.resume
  split
  · rfl
  · next h =>
    have he : eventsOf l = [] := List.head?_eq_none_iff.mp (nextEvent_eq_head? l ▸ h)
    simp [he]

/-- A sequencer edge leaves the trace, or does the first of the events that the operation in progress has left. -/
theorem State.tick_trace (s : State) :
    s.tick.trace = s.trace ∨ ∃ b, s.seq = some b ∧ s.tick.trace = s.trace ++ (eventsOf b.todo).head?.toList := by
  unfold State.tick
  split
  · exact .inl rfl
  · next b hb =>
    split
    · exact .inl rfl
    · exact .inr ⟨b, hb, by rw [State.resume_trace, stepEvent_trace]⟩

/-- Settles O49: the first event of a list is one or none. -/
theorem eventsHappenOneAtATime : Obligations.EventsHappenOneAtATime := by
  intro s
  obtain h | ⟨b, -, h⟩ := s.tick_trace
  · exact .inl h
  · cases he : (eventsOf b.todo).head? with
    | none => exact .inl (by simpa [he] using h)
    | some e => exact .inr ⟨e, by simpa [he] using h⟩

/-! ### The busy time is finite -/

/-- From any state: the edges that are left before the next event, the edge that does it, and those of the events after it. -/
theorem exists_busyFor (s : State) : ∃ n, BusyFor s n := by
  cases hs : s.seq with
  | none => exact ⟨0, fun k hk => absurd hk (Nat.not_lt_zero k), State.cmdReady_iff.mpr hs⟩
  | some b =>
    have hb : s = { s with seq := some ⟨b.word, b.todo, b.left⟩ } := by rw [← hs]
    rw [hb]
    exact ⟨_, busyFor_left b.left (busyFor_succ rfl (busyFor_resume _ b.word _))⟩

/-- Settles O50: after its busy time the block is idle, and is where the operation in progress ends. -/
theorem busyBlockAlwaysFinishes : Obligations.BusyBlockAlwaysFinishes := by
  intro s
  obtain ⟨n, hn⟩ := exists_busyFor s
  exact ⟨n, hn.2, ticks_of_busyFor hn⟩

/-! ### Unassigned opcodes -/

/-- The opcodes of 30_encoding.md R78. -/
theorem decode_of_unassigned {w : CmdWord} (h : CmdWord.op w = 0 ∨ 0x14 ≤ (CmdWord.op w).toNat) :
    decode (.host w) = .error (.unassignedOpcode (CmdWord.op w)) := by
  refine decodeFields_unassigned _ ?_
  obtain h | h := h
  · simp [h]
  · omega

theorem runCall_of_error {r : Request} {e : DecodeError} (h : decode r = .error e) (s : State) :
    runCall r s = .refused (refuseWord e) := by
  simp [runCall, h]

/-- Settles O10: the step is the call of the word, and the decoder's error names the refusal. -/
theorem stepRefusesUnassignedOpcodes : Obligations.StepRefusesUnassignedOpcodes :=
  fun _ _ _ hn hh hr hop => (step_of_call hn hh hr).trans (runCall_of_error (decode_of_unassigned hop) _)

end Sys2Proof.Machine
end

section
/-! PROOFS of 70_reset_and_hazards.md. `rst` decides an edge before anything else (R180, R184). The counts of R200 are those of one frame,
which is all pin events and makes sixteen rising and sixteen falling edges from a high clock, times the frames of the program
(`program_framed`), and one wait for each settle wait. The busy times of R201 are those of the sequencer (O48) at the named configuration,
where a frame takes 52 edges and a settle wait 2000. -/

namespace Sys2Proof.Machine

/-! ### Reset -/

theorem clockEdge_of_rst {p : PortIn} (h : p.rst = true) (s : State) : s.clockEdge p = .next s.resetBlock := if_pos h

/-- Settles O44: `rst` wins, and the reset block is the reset table of 10_state.md R35. -/
theorem resetEdgeRestoresTheResetState : Obligations.ResetEdgeRestoresTheResetState := fun s _ h => clockEdge_of_rst h s

/-! ### Pin events and waits -/

theorem filter_isPin_frame (c : Config) (m p : Byte) :
    (eventsOf (frameMicros c m p)).filter Event.isPin = eventsOf (frameMicros c m p) :=
  List.filter_eq_self.mpr fun e he => (Bool.not_eq_eq_eq_not ..).mp (waits_frameMicros c m p e he)

theorem filter_not_isPin_frame (c : Config) (m p : Byte) : (eventsOf (frameMicros c m p)).filter (fun e => !e.isPin) = [] :=
  List.filter_eq_nil_iff.mpr fun e he => Bool.eq_false_iff.mp (waits_frameMicros c m p e he)

theorem framed_pinEvents {c : Config} {l : List Micro} {f w : Nat} (h : Framed c l f w) :
    ((eventsOf l).filter Event.isPin).length = f * frameEvents c := by
  induction h with
  | nil => exact (Nat.zero_mul _).symm
  | write r v _ ih => exact ih
  | frame m p _ _ ih =>
    rw [eventsOf_append, List.filter_append, List.length_append, filter_isPin_frame, length_frameMicros, ih]
    ring
  | settle _ ih => exact ih

theorem framed_waitEvents {c : Config} {l : List Micro} {f w : Nat} (h : Framed c l f w) :
    ((eventsOf l).filter (fun e => !e.isPin)).length = w := by
  induction h with
  | nil => rfl
  | write r v _ ih => exact ih
  | frame m p _ _ ih => rwa [eventsOf_append, List.filter_append, filter_not_isPin_frame, List.nil_append]
  | settle _ ih => exact congrArg (· + 1) ih

/-! ### Clock edges -/

theorem risingEdges_append (q : Pins) (a b : List Event) :
    risingEdges q (a ++ b) = risingEdges q a + risingEdges (q.afterAll a) b := by
  induction a generalizing q with
  | nil => exact (Nat.zero_add _).symm
  | cons e a ih => simp [risingEdges, ih, Nat.add_assoc]

theorem fallingEdges_append (q : Pins) (a b : List Event) :
    fallingEdges q (a ++ b) = fallingEdges q a + fallingEdges (q.afterAll a) b := by
  induction a generalizing q with
  | nil => exact (Nat.zero_add _).symm
  | cons e a ih => simp [fallingEdges, ih, Nat.add_assoc]

theorem risingEdges_select (q : Pins) (l : Level) (es : List Event) :
    risingEdges q (.pin .csn l :: es) = risingEdges (q.set .csn l) es := Nat.zero_add _

theorem fallingEdges_select (q : Pins) (l : Level) (es : List Event) :
    fallingEdges q (.pin .csn l :: es) = fallingEdges (q.set .csn l) es := Nat.zero_add _

/-- Eight of each byte, and none of the select line (41_frame_transmitter.md R100). -/
theorem risingEdges_frame {q : Pins} (hq : q.sck = true) (c : Config) (m p : Byte) :
    risingEdges q (eventsOf (frameMicros c m p)) = 16 := by
  rw [eventsOf_frameMicros]
  cases hc : c.hasSelect with
  | false =>
    rw [frameEventList_of_no_select hc, risingEdges_append, risingEdges_sendEvents hq, risingEdges_sendEvents rfl]
  | true =>
    rw [frameEventList_of_select hc, risingEdges_select, risingEdges_append, risingEdges_sendEvents (q := q.set .csn false) hq,
      risingEdges_append, risingEdges_sendEvents rfl]
    rfl

theorem fallingEdges_frame (q : Pins) (c : Config) (m p : Byte) : fallingEdges q (eventsOf (frameMicros c m p)) = 16 := by
  rw [eventsOf_frameMicros]
  cases hc : c.hasSelect with
  | false => rw [frameEventList_of_no_select hc, fallingEdges_append, fallingEdges_sendEvents, fallingEdges_sendEvents]
  | true =>
    rw [frameEventList_of_select hc, fallingEdges_select, fallingEdges_append, fallingEdges_sendEvents, fallingEdges_append,
      fallingEdges_sendEvents]
    rfl

/-- Each frame leaves the clock high for the next, and a settle wait leaves it where it is. -/
theorem framed_clockEdges {c : Config} {l : List Micro} {f w : Nat} (h : Framed c l f w) {q : Pins} (hq : q.sck = true) :
    risingEdges q (eventsOf l) = 16 * f ∧ fallingEdges q (eventsOf l) = 16 * f := by
  induction h generalizing q with
  | nil => exact ⟨rfl, rfl⟩
  | write r v _ ih => exact ih hq
  | frame m p _ _ ih =>
    obtain ⟨hr, hf⟩ := ih (q := q.afterAll (eventsOf (frameMicros c m p))) (by rw [afterAll_frameMicros])
    rw [eventsOf_append, risingEdges_append, risingEdges_frame hq, hr, fallingEdges_append, fallingEdges_frame, hf]
    omega
  | settle _ ih =>
    rw [eventsOf_append, risingEdges_append, fallingEdges_append]
    obtain ⟨hr, hf⟩ := ih hq
    exact ⟨(Nat.zero_add _).trans hr, (Nat.zero_add _).trans hf⟩

/-- Settles O40: the program is as many frames and settle waits as the table says. -/
theorem eventCountsAreThoseOfTheTable : Obligations.EventCountsAreThoseOfTheTable := by
  intro i s t hi h
  obtain ⟨l, hl, rfl⟩ := exec_next_iff.mp h
  have hf := program_framed hi hl
  exact ⟨eventsOf l, s.perform_trace l, framed_pinEvents hf, framed_waitEvents hf,
    framed_clockEdges (q := s.pins) hf⟩

/-! ### Busy times -/

/-- At 1 MHz a wait of `us` microseconds takes `us` edges (60_exceptions.md R168). -/
theorem settleEdges_of_one_megahertz {c : Config} (h : c.clkHz = 1000000) (us : Nat) : settleEdges c us = us := by
  simp [settleEdges, h]

/-- The configuration for which R201 names the numbers. -/
structure NamedTiming (c : Config) : Prop where
  select : c.hasSelect = true
  cycles : c.cyclesPerStep = 1
  clk : c.clkHz = 1000000
  settle : c.settleUs = 2000

/-- There a frame takes 52 edges and a settle wait 2000. -/
theorem accept_busyFor_of_namedTiming {s t : State} {w : CmdWord} {i : Instr} {frames waits : Nat} (hc : NamedTiming s.cfg)
    (hs : s.cmdReady = true) (hd : decode (.host w) = .ok i) (ht : exec i s = .next t) (hf : framesSent i = frames)
    (hw : waitsMade i = waits) : ∃ u, s.accept w = .next u ∧ BusyFor u (frames * 52 + waits * 2000) := by
  obtain ⟨u, hu, hb, -⟩ := sequencerReachesWhatTheOperationGives s t w i hs hd ht
  rw [settleEdges_of_one_megahertz hc.clk, hc.settle, hc.cycles, frameEvents, if_pos hc.select, hf, hw, Nat.max_self,
    Nat.mul_one] at hb
  exact ⟨u, hu, hb⟩

/-- Settles O51: each of the four completes, with the frames and settle waits that R200 counts. -/
theorem busyTimesOfTheSpec : Obligations.BusyTimesOfTheSpec := by
  intro s w hs hsel hcyc hclk hset
  have hc : NamedTiming s.cfg := ⟨hsel, hcyc, hclk, hset⟩
  refine ⟨fun hop => ?_, fun hop => ?_, fun hop => ?_, fun hop hrows => ?_⟩
  · exact accept_busyFor_of_namedTiming (frames := 1) (waits := 0) hc hs (decode_of_op hop) (exec_of_frame rfl) rfl rfl
  · exact accept_busyFor_of_namedTiming (frames := 1) (waits := 1) hc hs (decode_of_op hop) (exec_clear s) rfl rfl
  · exact accept_busyFor_of_namedTiming (frames := 9) (waits := 0) hc hs (decode_of_op hop)
      (exec_of_walks rfl (perform_createChar ..) (walks_createChar ..)) rfl rfl
  · obtain ⟨es, he⟩ := exec_begin (s := s) (CmdWord.operand w 0) hrows
    exact accept_busyFor_of_namedTiming (frames := 7) (waits := 2) hc hs (decode_of_op hop) he rfl rfl

end Sys2Proof.Machine
end
